-- ==== Sys2Proof/Word.lean ====
section
/-! DEFINITION. The word types of the engine: the spec's `uN` and `iN` (R10, R400) as bit vectors. -/

namespace Sys2Proof

/-- A byte (R10): a cell of the raw buffer, a byte of an operand string. -/
abbrev Byte := BitVec 8

/-- A u16: a FIFO length (R107), a CRC16 value (R132). -/
abbrev Half := BitVec 16

/-- A u32, or the pattern of an i32: a raw32 counter value (R16), a timestamp, a frequency. -/
abbrev Word := BitVec 32

/-- A raw27 counter value in microseconds (R16, R30). -/
abbrev Raw27 := BitVec 27

end Sys2Proof
end

