-- ==== Sys2Proof/Records.lean ====
section
/-! DEFINITION. The enumerations of the spec, the records its operations return (R40, R44, R46, R111, R270), and
the types of its format tables (R9, R93). -/

namespace Sys2Proof

/-- `bw` (R111): one of three bandwidths; no numeric code is fixed (D54). -/
inductive Bandwidth where
  | bw125
  | bw250
  | bw500
deriving DecidableEq, Repr, Inhabited

/-- `dom` (R29, R111): the name of one of the two timestamp domains. -/
inductive DomainName where
  | inst
  | pps
deriving DecidableEq, Repr, Inhabited

/-- The modem capability of an IF chain, the values of IFMOD (R40, R243). -/
inductive IfMod where
  | loraMulti
  | loraStd
  | fsk
deriving DecidableEq, Repr, Inhabited

/-- The modulation kind of a returned record (R46, R243). -/
inductive Modulation where
  | lora
  | fsk
deriving DecidableEq, Repr, Inhabited

/-- The semantic datarate of a returned record (R46, R247). -/
inductive Spreading where
  | sf5
  | sf6
  | sf7
  | sf8
  | sf9
  | sf10
  | sf11
  | sf12
  | undefined
deriving DecidableEq, Repr, Inhabited

/-- The semantic coding rate of a returned record (R46, R247). -/
inductive CodingRate where
  | cr45
  | cr46
  | cr47
  | cr48
  | undefined
deriving DecidableEq, Repr, Inhabited

/-- The closed set of typed failures, in the taxonomy's order (R270). -/
inductive Failure where
  | malformedBuffer
  | checksumMismatch
  | outOfRangeMetadata
  | crc16Mismatch
  | insufficientHistory
  | crystalErrorOutOfRange
  | fineTimestampOverflow
deriving DecidableEq, Repr, Inhabited

/-- DecodedPacket, the result of BUF_POP (R44). `freqOffset` is the sign-extended 20-bit field as an
integer (R95); `metrics` holds the `2·m` metric bytes in record order, each the pattern of an i8 (R98). -/
structure DecodedPacket where
  payloadLen : Byte
  channel : Byte
  crcEn : Bool
  codingRate : BitVec 3
  datarate : BitVec 4
  modemId : Byte
  freqOffset : Int
  crcError : Bool
  syncError : Bool
  headerError : Bool
  timingSet : Bool
  snrAvg : Byte
  rssiChanAvg : Byte
  rssiSigAvg : Byte
  rssiChanNegDelta : BitVec 4
  rssiChanPosDelta : BitVec 4
  rssiSigNegDelta : BitVec 4
  rssiSigPosDelta : BitVec 4
  timestamp : Word
  crc16 : Half
  numMetrics : Byte
  metrics : List Byte
  payload : List Byte
deriving DecidableEq, Repr, Inhabited

/-- NormalizedRxRecord, the result of PKT_ASM (R46, R260). `ifChain` is the channel 0..9, `rfChain` the RF
chain, and `freqOffsetHz` the exact integer of R249. -/
structure NormalizedRxRecord where
  freqHz : Word
  ifChain : Byte
  rfChain : Nat
  modulation : Modulation
  ifMod : IfMod
  modemId : Byte
  bandwidth : Bandwidth
  sf : Spreading
  cr : CodingRate
  crcEn : Bool
  crcError : Bool
  crcPassed : Bool
  snrAvg : Byte
  rssiChanAvg : Byte
  rssiSigAvg : Byte
  crc16 : Half
  freqOffsetHz : Int
  size : Byte
  payload : List Byte
  countUs : Word
  ftimePresent : Bool
  ftimeNs : Word
deriving DecidableEq, Repr, Inhabited

/-- The four results of TOA (R200): symbol duration in µs, payload symbols, total symbols (a multiple of
1/4) and duration in µs. -/
structure ToaResult where
  tSym : Nat
  nPay : Nat
  nTotal : ℚ
  duration : ℚ
deriving DecidableEq, Repr, Inhabited

/-! ## The formats of the bytes from the chip, as data (R9) -/

/-- The rows of LAYOUT (R93): the fields of a record. `payload` and `metric` are the first byte of their part. -/
inductive Field where
  | sync0
  | sync1
  | payloadLen
  | channel
  | crcEn
  | codingRate
  | datarate
  | modemId
  | freqOffset
  | payload
  | crcError
  | syncError
  | headerError
  | timingSet
  | snrAvg
  | rssiChanAvg
  | rssiSigAvg
  | rssiChanNegDelta
  | rssiChanPosDelta
  | rssiSigNegDelta
  | rssiSigPosDelta
  | timestamp
  | crc16
  | numMetrics
  | metric
  | checksum
deriving DecidableEq, Repr

/-- What a field's offset counts from (R93): the record start `c`, the first tail byte `T`, or, for what stands
behind the metric bytes, `T + 2·m`. -/
inductive Part where
  | head
  | tail
  | behindMetrics
deriving DecidableEq, Repr, Inhabited

/-- A row of LAYOUT: what the field's offset counts from, the offset of the field's first byte, the field's
lowest bit in that byte and its width in bits. A field of more than one byte is little-endian (R63). -/
structure FieldPlace where
  part : Part
  byte : Nat
  bit : Nat
  width : Nat
deriving DecidableEq, Repr, Inhabited

/-- A table LAYOUT (R9, R93): the place of every field. -/
abbrev RecordLayout := Field → FieldPlace

/-- PAIR_LAYOUT (R9): where in the 8-byte counter pair the bytes of each counter stand, most significant byte
first. -/
structure PairLayout where
  pps : Vector (Fin 8) 4
  inst : Vector (Fin 8) 4
deriving DecidableEq, Repr, Inhabited

end Sys2Proof
end

