-- ==== Sys2Proof/Config.lean ====
section
/-! DEFINITION. The configuration record of the engine: the constants of R40 and the parameters of R9, those
the spec decides and those it leaves open. A rule's definition takes a `Config`, or the field it needs, as an
argument; the machine itself runs with `Config.board`, whose open parameters have no value. -/

namespace Sys2Proof

/-- The configuration constants and configuration functions (R9, R40). They are set before the first
operation and no operation writes them (R41, R313).

* `crcInit`, `crcStep`: CRC16_FN is a fold of a step over the bytes from an initial value (R132), and
  nothing more of it is known.
* `legacyAdvance`: the magnitude of LEGACY_CORR_FN, whose result lies strictly above `−2^31` and at or
  below 0 and is otherwise unknown (R207).
* `layout`: LAYOUT, the field table of a record (R93). `pairLayout`: PAIR_LAYOUT (R105).
* `filtUs`: FILT_US (R210), any integer for each bandwidth: that R210's "at most 18 µs" binds the candidates
  and not the parameter is the model's choice (DESIGN CHOICE, log 24).
* `fskCorr`: FSK_CORR_FN (R255). `notchC0` .. `notchC4`: the notch polynomial (R221).
* `rfFreq` lists RF_FREQ, so N_RF is its length. `ifFreq` holds i32 patterns. -/
structure Config where
  layout : RecordLayout
  pairLayout : PairLayout
  ftimeEn : Bool
  ifMod : Vector IfMod 10
  ifRf : Vector Nat 10
  ifFreq : Vector Word 10
  rfFreq : List Word
  bw : Vector Bandwidth 10
  crcInit : Half
  crcStep : Half → Byte → Half
  legacyAdvance : Bandwidth → Nat → BitVec 3 → Bool → Byte → Fin (2 ^ 31)
  filtUs : Bandwidth → Int
  fskCorr : DecodedPacket → Int
  notchC0 : ℚ
  notchC1 : ℚ
  notchC2 : ℚ
  notchC3 : ℚ
  notchC4 : ℚ
deriving Inhabited

/-- The live PPS values that the host supplies beyond those a RECEIVE lists (R258): the value of a call index in
a cycle, free. R258 takes `lives` as an infinite sequence of draws, of which a list holds the first ones; the
first argument counts the RECEIVEs, so that every cycle draws anew (DESIGN CHOICE, log 14). -/
opaque Config.freeLive : Nat → Nat → Word

end Sys2Proof
end

