-- ==== Sys2Proof/Machine/Params.lean ====
section
/-! DEFINITION. The parameters the spec fixes (R7) and the constants derived from them (R8). -/

namespace Sys2Proof.Params

/-- BUF_CAP (R7): capacity of the raw buffer in bytes. -/
abbrev bufCap : Nat := 4096

/-- RING_CAP (R7): capacity of the PPS history ring. -/
abbrev ringCap : Nat := 16

/-- SYNC0 (R7): the first sync byte. -/
abbrev sync0 : Byte := 0xA5#8

/-- SYNC1 (R7): the second sync byte. -/
abbrev sync1 : Byte := 0xC0#8

/-- HEAD_LEN (R7, R91): head bytes, the two sync bytes included. -/
abbrev headLen : Nat := 9

/-- TAIL_LEN (R7, R91): tail bytes, the checksum byte included. -/
abbrev tailLen : Nat := 14

/-- METRIC_BYTES (R7): bytes per fine-timing metric. -/
abbrev metricBytes : Nat := 2

/-- PAYLOAD_MAX (R7): the largest payload; also the longest operand of CRC16 (R132). -/
abbrev payloadMax : Nat := 255

/-- MODEM_ID_MAX (R7): the largest legal modem id. -/
abbrev modemIdMax : Nat := 17

/-- LORA_MODEM_ID_MAX (R7): the largest modem id that is a LoRa modem. -/
abbrev loraModemIdMax : Nat := 16

/-- CHANNEL_MAX (R7): the largest legal channel (IF chain) number. -/
abbrev channelMax : Nat := 9

/-- SF_MIN (R7): the smallest legal spreading-factor code. -/
abbrev sfMin : Nat := 5

/-- SF_MAX (R7): the largest legal spreading-factor code. -/
abbrev sfMax : Nat := 12

/-- CR_MIN (R7): the smallest coding-rate code with a semantic value. -/
abbrev crMin : Nat := 1

/-- CR_MAX (R7): the largest coding-rate code with a semantic value. -/
abbrev crMax : Nat := 4

/-- TICK_HZ (R7): ticks per second of the 32 MHz counters. -/
abbrev tickHz : Nat := 32000000

/-- NS_PER_TICK (R7, R404): 31.25 ns, read as the exact fraction 125/4. -/
abbrev nsPerTick : ℚ := 125 / 4

/-- GROUP_DELAY (R7): the fixed hardware group delay in ticks. -/
abbrev groupDelay : Nat := 2138

/-- XTAL_MIN (R7, R404): 0.8, read as 4/5, inclusive. -/
abbrev xtalMin : ℚ := 4 / 5

/-- XTAL_MAX (R7, R404): 1.2, read as 6/5, inclusive. -/
abbrev xtalMax : ℚ := 6 / 5

/-- FTIME_LIMIT (R7): the exclusive upper bound of a fine timestamp in ns. -/
abbrev ftimeLimit : Nat := 1000000000

/-- NOTCH_RANGE_KHZ (R7): the notch correction is zero outside ±75 kHz. -/
abbrev notchRangeKhz : ℚ := 75

/-- MIN_LEN (R8): the length of the shortest record, 23. -/
abbrev minLen : Nat := headLen + tailLen

/-- PACKETS_MAX (R8): the largest value `packet_count` can take, 178. -/
abbrev packetsMax : Nat := 178

/-- ROLLOVER_US (R8): the period of a 27-bit microsecond counter. -/
abbrev rolloverUs : Nat := 2 ^ 27

end Sys2Proof.Params
end

