-- ==== Sys2Proof/Syntax.lean ====
section
/-! DEFINITION. The seventeen operations of R110, the typed operand values a host passes, and the request
that invokes one operation. -/

namespace Sys2Proof

/-- The operations of R110, one per row of the command table. -/
inductive Opcode where
  | csum8
  | crc16
  | tsUpdate
  | tsExpand
  | tsPktexp
  | cntSample
  | ppsSave
  | bufClear
  | bufFetch
  | bufPop
  | toa
  | corrLegacy
  | corrPrec
  | notch
  | ftimeCalc
  | pktAsm
  | receive
deriving DecidableEq, Repr, Inhabited

/-- One operand as the host passes it: a typed value, not packed into bits (R110). A number carries no
width of its own, so a value outside an operand's type can be passed, and is refused (R280). -/
inductive Operand where
  | num (n : Nat)
  | int (z : Int)
  | rat (q : ℚ)
  | bit (b : Bool)
  | bytes (d : List Byte)
  | ints (l : List Int)
  | nums (l : List Nat)
  | bw (b : Bandwidth)
  | dom (d : DomainName)
deriving DecidableEq, Repr

/-- An invocation by the host: the 8-bit command code (format CMD8, the whole encoding) and the operands
in the order of R110's table. -/
structure Request where
  code : Byte
  operands : List Operand
deriving DecidableEq, Repr

/-- An operation with its operands at their types (R110, R111): `u27` is `Raw27`, `u32` and `i32` are
`Word`, a metric byte (i8) is a `Byte`, `bytes[8]` is a vector. The operands that carry a further
precondition (U3, U4, U5, the 255 bytes of R132) are checked by `Instr.check`. -/
inductive Instr where
  | csum8 (d : List Byte)
  | crc16 (d : List Byte)
  | tsUpdate (ppsRaw instRaw : Raw27)
  | tsExpand (dom : DomainName) (raw : Raw27)
  | tsPktexp (pktRaw : Raw27)
  | cntSample (pair : Vector Byte 8)
  | ppsSave (raw : Word)
  | bufClear
  | bufFetch (len1 len2 : Half) (data : List Byte)
  | bufPop
  | toa (bw : Bandwidth) (sf : Nat) (cr : BitVec 3) (nPre : Nat) (headerEn crcEn : Bool) (size : Byte)
  | corrLegacy (bw : Bandwidth) (sf : Nat) (cr : BitVec 3) (crcEn : Bool) (size : Byte)
  | corrPrec (bw : Bandwidth) (sf : Nat) (cr : BitVec 3) (crcEn : Bool) (size : Byte)
  | notch (ifFreqHz : Word)
  | ftimeCalc (metrics : List Byte) (m : Byte) (rawTs : Word) (sf : Nat) (ifFreqHz : Word)
      (freqError : ℚ) (livePps : Word)
  | pktAsm (livePps : Word)
  | receive (len1 len2 : Half) (data : List Byte) (pair : Vector Byte 8) (lives : List Word)
deriving DecidableEq, Repr

end Sys2Proof
end

