-- ==== Sys2Proof/WellFormed.lean ====
section
/-! DEFINITION. The preconditions of the operations (R280, list U of 93_implementation_defined.md): the
name of each, and the check of an operation's operands. -/

namespace Sys2Proof

/-- Why the engine has no transition for a request: the precondition that it breaks (R12 `refuse`, R280).
Raised by `decode` for a request and by a meaning for an ill-formed operation. Safe: the model stops where
the spec gives the operation no meaning. -/
inductive Reject where
  /-- U1: a command code that is not one of the seventeen (R114). -/
  | unknownCommand (code : Byte)
  /-- The operands are not of the number and kinds R110's table gives the operation (R280). -/
  | operandKinds (op : Opcode)
  /-- An operand is outside its type: a u16 at or above `2^16`, a pair that is not 8 bytes long, a CRC16
  operand of more than 255 bytes (R280). -/
  | outsideType (op : Opcode)
  /-- U2: a 27-bit counter operand at or above `2^27`. -/
  | counterRange
  /-- U3: `max(len1, len2) > 4096`, or `data` not exactly that long. -/
  | fetchOperands
  /-- U4: `sf` outside 5..12 for TOA, CORR_LEGACY or CORR_PREC. -/
  | correctionOperands
  /-- U5: FTIME_CALC with `m = 0`, `|metrics| ≠ 2·m`, or `sf` outside 5..12. -/
  | fineOperands
deriving DecidableEq, Repr

/-- `sf: 5..12` (R110). -/
abbrev SfLegal (sf : Nat) : Prop := Params.sfMin ≤ sf ∧ sf ≤ Params.sfMax

/-- The precondition of BUF_FETCH and RECEIVE (R171, U3). -/
abbrev FetchLegal (len1 len2 : Half) (data : List Byte) : Prop :=
  max len1.toNat len2.toNat ≤ Params.bufCap ∧ data.length = max len1.toNat len2.toNat

/-- The precondition of FTIME_CALC (R223, U5). -/
abbrev FineLegal (metrics : List Byte) (m : Byte) (sf : Nat) : Prop :=
  1 ≤ m.toNat ∧ metrics.length = 2 * m.toNat ∧ SfLegal sf

/-- The precondition an operation's operands break, if any: those preconditions that the operand types of
`Instr` do not already enforce and that the operands alone decide. -/
def Instr.check : Instr → Option Reject
  | .csum8 _ => none
  | .crc16 d => if d.length ≤ Params.payloadMax then none else some (.outsideType .crc16)
  | .tsUpdate _ _ => none
  | .tsExpand _ _ => none
  | .tsPktexp _ => none
  | .cntSample _ => none
  | .ppsSave _ => none
  | .bufClear => none
  | .bufFetch len1 len2 data => if FetchLegal len1 len2 data then none else some .fetchOperands
  | .bufPop => none
  | .toa _ sf _ _ _ _ _ => if SfLegal sf then none else some .correctionOperands
  | .corrLegacy _ sf _ _ _ => if SfLegal sf then none else some .correctionOperands
  | .corrPrec _ sf _ _ _ => if SfLegal sf then none else some .correctionOperands
  | .notch _ => none
  | .ftimeCalc metrics m _ sf _ _ _ => if FineLegal metrics m sf then none else some .fineOperands
  | .pktAsm _ => none
  | .receive len1 len2 data _ _ => if FetchLegal len1 len2 data then none else some .fetchOperands

/-- An operation whose operands satisfy its stated preconditions. -/
abbrev Instr.WellFormed (i : Instr) : Prop := i.check = none

end Sys2Proof
end

