-- ==== Sys2Proof/Machine/State.lean ====
section
/-! DEFINITION. The state of the engine as plain data (R20 to R43), the results an operation hands to the
host, the reasons a step can stop, and the state after reset (R47). -/

namespace Sys2Proof.Machine

/-- One TimestampDomain (R29): the 27-bit last-seen reference and the 5-bit wrap counter. -/
structure TimestampDomain where
  ref : Raw27
  wrap : BitVec 5
deriving DecidableEq, Repr

/-- The results of the operations (R110's table). -/
inductive Result where
  /-- CSUM8: u8 (R130). -/
  | sum (v : Byte)
  /-- CRC16: u16 (R132). -/
  | crc (v : Half)
  /-- TS_EXPAND, TS_PKTEXP: u32 (R143, R145). -/
  | expanded (v : Word)
  /-- CNT_SAMPLE: `inst_us`, `pps_us` (R147). -/
  | sample (instUs ppsUs : Word)
  /-- BUF_FETCH: the new `packet_count` (R171). -/
  | count (n : Byte)
  /-- BUF_POP: a DecodedPacket (R177). -/
  | packet (p : DecodedPacket)
  /-- TOA (R200). -/
  | airtime (r : ToaResult)
  /-- CORR_LEGACY, CORR_PREC: a signed number of microseconds (R206, R209). -/
  | correction (us : Int)
  /-- NOTCH: a rational number of ticks (R220). -/
  | delay (ticks : ℚ)
  /-- FTIME_CALC: u32 nanoseconds (R223). -/
  | fine (ns : Word)
  /-- PKT_ASM: a NormalizedRxRecord (R240). -/
  | record (r : NormalizedRxRecord)
  /-- RECEIVE: the records of the cycle and CNT_SAMPLE's results (R256). -/
  | cycle (records : List NormalizedRxRecord) (instUs ppsUs : Word)
deriving DecidableEq, Repr

/-- The complete persistent state of R21, and three fields of the model's own at the end. -/
structure State where
  /-- `BUF` (R24): the raw buffer, as the cells that differ from what an unlisted address reads as. -/
  buf : List Host.Cell
  /-- `size` (R25): the number of valid bytes in `BUF`. -/
  size : BitVec 13
  /-- `cursor` (R26): the offset of the next unparsed record. -/
  cursor : BitVec 13
  /-- `packet_count` (R27): packets known to remain. -/
  packetCount : BitVec 8
  /-- The `inst` domain (R29 to R31). -/
  inst : TimestampDomain
  /-- The `pps` domain (R29 to R31). -/
  pps : TimestampDomain
  /-- `SLOT` (R32): the PPS history ring. -/
  slot : Vector Word 16
  /-- `widx` (R33): the index of the entry stored most recently. -/
  widx : BitVec 4
  /-- `fill` (R34): the fill count of the ring. -/
  fill : BitVec 5
  /-- `STATUS` (R42): the status code of the operation completed last. -/
  status : BitVec 8
  /-- The model's own (log 1): the operations the host has invoked and the engine has not begun, oldest
  first. -/
  port : List Request
  /-- The model's own (log 3): what the operation completed last hands to the host beside its status. No
  operation reads it (R43). -/
  output : Option Result
  /-- The model's own (log 14): the number of RECEIVEs completed, which tells the free live PPS values of one
  cycle from those of another. -/
  cycles : Nat
deriving DecidableEq, Repr

/-- Why the machine stops with a fault. -/
inductive Fault where
  /-- A buffer read at or above address 4096, which does not exist (R24, R60). Raised by BUF_POP, PKT_ASM
  and RECEIVE where `size > 4096`, which no run reaches (R37). Safe: the model stops where the spec
  describes no state. -/
  | bufferAddress
deriving DecidableEq, Repr

/-- Why the machine has no transition (R12 `refuse`, R280). -/
inductive Refusal where
  /-- An instruction without a meaning in this model. Raised by an arm of `exec`; no arm does. Safe. -/
  | notModelled (mnemonic : String)
  /-- An operand breaks a stated precondition (list U). Raised by `step` for a request that does not decode
  and by a meaning for an ill-formed operation. Safe: the spec gives the operation no meaning. -/
  | precondition (r : Reject)
  /-- A configuration constant outside its legal values is needed (R41, U10). Raised by PKT_ASM and RECEIVE
  for a configuration that is not legal; the machine's own is legal. Safe. -/
  | configuration
deriving DecidableEq, Repr

/-- The state after reset (R47, R311): every register 0. `BUF` and `SLOT` are unspecified and unobservable;
here nothing is listed and every slot is 0 (DESIGN CHOICE, log 4 and 5). -/
def State.reset : State where
  buf := []
  size := 0#13
  cursor := 0#13
  packetCount := 0#8
  inst := ⟨0#27, 0#5⟩
  pps := ⟨0#27, 0#5⟩
  slot := Vector.replicate 16 0#32
  widx := 0#4
  fill := 0#5
  status := 0#8
  port := []
  output := none
  cycles := 0

end Sys2Proof.Machine
end

