-- ==== Sys2Proof/Machine/Operands.lean ====
section
/-! DEFINITION. The operand forms and the arithmetic of R11, R105, R106, R111, R247 and R402: bandwidths,
byte order, counter formats, rounding. -/

namespace Sys2Proof.Machine

open Sys2Proof.Params

/-! ## Enumerations -/

/-- `bw_divisor` (R111). -/
def bwDivisor : Bandwidth → Nat
  | .bw125 => 1
  | .bw250 => 2
  | .bw500 => 4

/-- LSB (R7, R248) in millionths of a Hz per LSB of the frequency-offset field. -/
def lsbMicroHz : Bandwidth → Int
  | .bw125 => 119209
  | .bw250 => 238419
  | .bw500 => 476837

/-- The semantic datarate of a raw SF code (R247). -/
def spreadingOf : Nat → Spreading
  | 5 => .sf5
  | 6 => .sf6
  | 7 => .sf7
  | 8 => .sf8
  | 9 => .sf9
  | 10 => .sf10
  | 11 => .sf11
  | 12 => .sf12
  | _ => .undefined

/-- The semantic coding rate of a raw coding-rate code (R247). -/
def codingRateOf : Nat → CodingRate
  | 1 => .cr45
  | 2 => .cr46
  | 3 => .cr47
  | 4 => .cr48
  | _ => .undefined

/-! ## Byte order and counter formats -/

/-- The little-endian number of the `n` bytes at `a` (R12 MemRead, R63). -/
def leNat (rd : Nat → Byte) (a : Nat) : Nat → Nat
  | 0 => 0
  | n + 1 => (rd a).toNat + 256 * leNat rd (a + 1) n

/-- A raw32 value from its four bytes, most significant first (R64). -/
def beWord (b0 b1 b2 b3 : Byte) : Word := b0 ++ b1 ++ b2 ++ b3

/-- PAIR_LAYOUT (R105): the order the spec decides for, the PPS counter first, both big-endian. -/
def counterPairLayout : PairLayout := ⟨#v[0, 1, 2, 3], #v[4, 5, 6, 7]⟩

/-- The counter whose bytes stand at these places of a pair, most significant first. -/
def counterAt (places : Vector (Fin 8) 4) (pair : Vector Byte 8) : Word :=
  beWord (pair.get places[0]) (pair.get places[1]) (pair.get places[2]) (pair.get places[3])

/-- The PPS-latched counter of a counter pair (R105). -/
def pairPps (l : PairLayout) (pair : Vector Byte 8) : Word := counterAt l.pps pair

/-- The instantaneous counter of a counter pair (R105). -/
def pairInst (l : PairLayout) (pair : Vector Byte 8) : Word := counterAt l.inst pair

/-- The PPS register (R106). -/
def ppsRegister (reg : Vector Byte 4) : Word := beWord reg[0] reg[1] reg[2] reg[3]

/-- From raw32 to raw27 (R108): divide by 32, discard the remainder. -/
def raw27Of (w : Word) : Raw27 := (w >>> 5).setWidth 27

/-- `a −32 b` (R11) as the unsigned number it is compared as (R401). -/
def sub32 (a b : Word) : Nat := (a - b).toNat

/-! ## Rounding -/

/-- `ceil(x / d)` of naturals, `d > 0` (R402). -/
def ceilDiv (x d : Nat) : Nat := (x + d - 1) / d

/-- `trunc(a / b)` of integers, toward zero (R11, R402). -/
def truncDiv (a b : Int) : Int := a.tdiv b

/-- `round_hu` (R11): round half up. -/
def roundHu (x : ℚ) : Int := ⌊x + 1 / 2⌋

end Sys2Proof.Machine
end

