-- ==== Sys2Proof/Machine/Layout.lean ====
section
/-! DEFINITION. LAYOUT, the field table of the raw packet record (R93), and the generic field reader. The reader
takes the table as an argument, which is configuration data (R9): another table is another record format, and
no rule holds an offset of its own. -/

namespace Sys2Proof.Machine

open Sys2Proof.Params

/-- LAYOUT (R93): the table the spec decides for. -/
def recordLayout : RecordLayout
  | .sync0 => ⟨.head, 0, 0, 8⟩
  | .sync1 => ⟨.head, 1, 0, 8⟩
  | .payloadLen => ⟨.head, 2, 0, 8⟩
  | .channel => ⟨.head, 3, 0, 8⟩
  | .crcEn => ⟨.head, 4, 0, 1⟩
  | .codingRate => ⟨.head, 4, 1, 3⟩
  | .datarate => ⟨.head, 4, 4, 4⟩
  | .modemId => ⟨.head, 5, 0, 8⟩
  | .freqOffset => ⟨.head, 6, 0, 20⟩
  | .payload => ⟨.head, 9, 0, 8⟩
  | .crcError => ⟨.tail, 0, 0, 1⟩
  | .syncError => ⟨.tail, 0, 2, 1⟩
  | .headerError => ⟨.tail, 0, 3, 1⟩
  | .timingSet => ⟨.tail, 0, 4, 1⟩
  | .snrAvg => ⟨.tail, 1, 0, 8⟩
  | .rssiChanAvg => ⟨.tail, 2, 0, 8⟩
  | .rssiSigAvg => ⟨.tail, 3, 0, 8⟩
  | .rssiChanNegDelta => ⟨.tail, 4, 0, 4⟩
  | .rssiChanPosDelta => ⟨.tail, 4, 4, 4⟩
  | .rssiSigNegDelta => ⟨.tail, 5, 0, 4⟩
  | .rssiSigPosDelta => ⟨.tail, 5, 4, 4⟩
  | .timestamp => ⟨.tail, 6, 0, 32⟩
  | .crc16 => ⟨.tail, 10, 0, 16⟩
  | .numMetrics => ⟨.tail, 12, 0, 8⟩
  | .metric => ⟨.tail, 13, 0, 8⟩
  | .checksum => ⟨.behindMetrics, 13, 0, 8⟩

/-- The offset of a field's first byte in the record at `c` with payload length `n` and metric count `m`. -/
def fieldOffset (l : RecordLayout) (c n m : Nat) (f : Field) : Nat :=
  match (l f).part with
  | .head => c + (l f).byte
  | .tail => c + headLen + n + (l f).byte
  | .behindMetrics => c + headLen + n + metricBytes * m + (l f).byte

/-- The number of bytes a field touches. -/
def fieldBytes (l : RecordLayout) (f : Field) : Nat := ((l f).bit + (l f).width + 7) / 8

/-- The offset just behind a field. -/
def fieldEnd (l : RecordLayout) (c n m : Nat) (f : Field) : Nat := fieldOffset l c n m f + fieldBytes l f

/-- The value of a field of the record at `c` (R93, R409 (a) and (b)). -/
def fieldNat (l : RecordLayout) (rd : Nat → Byte) (c n m : Nat) (f : Field) : Nat :=
  (leNat rd (fieldOffset l c n m f) (fieldBytes l f) >>> (l f).bit) % 2 ^ (l f).width

/-- The value of a field as a bit vector. -/
def fieldBits (l : RecordLayout) (rd : Nat → Byte) (c n m : Nat) (f : Field) (w : Nat) : BitVec w :=
  BitVec.ofNat w (fieldNat l rd c n m f)

/-- The value of a one-bit field. -/
def fieldFlag (l : RecordLayout) (rd : Nat → Byte) (c n m : Nat) (f : Field) : Bool :=
  fieldNat l rd c n m f == 1

/-- The record length `9 + N + 14 + 2·m` (R92). -/
def recLen (n m : Nat) : Nat := headLen + n + tailLen + metricBytes * m

end Sys2Proof.Machine
end

