-- ==== Sys2Proof/Machine/Board.lean ====
section
/-! DEFINITION. The channel frequencies a configuration gives (R244), its legality (U10), and the machine's own
configuration: the spec's format tables, and open parameters of which only legality is known. -/

namespace Sys2Proof

/-- N_RF (R9, R40): the number of RF chains. -/
def Config.nRf (c : Config) : Nat := c.rfFreq.length

/-- The IF offset of a channel as an integer number of Hz: IF_FREQ[ch] is an i32 (R40). -/
def Config.ifFreqHz (c : Config) (ch : Fin 10) : Int := (c.ifFreq.get ch).toInt

/-- The channel centre frequency `RF_FREQ[IF_RF[ch]] + IF_FREQ[ch]`, exact (R244), or `none` where the
configuration is outside its legal values: the RF chain is not below N_RF, or the sum is not in
`1 .. 2^32 − 1` (R41, U10). -/
def Config.centreHz (c : Config) (ch : Fin 10) : Option Nat :=
  match c.rfFreq[c.ifRf.get ch]? with
  | none => none
  | some rf =>
    let f : Int := rf.toNat + c.ifFreqHz ch
    if 0 < f ∧ f < 2 ^ 32 then some f.toNat else none

/-- A configuration inside the spec's domain: every channel has a centre frequency (U10). -/
abbrev Config.Legal (c : Config) : Prop := ∀ ch : Fin 10, (c.centreHz ch).isSome

/-- A configuration with the proof that it is legal: U10 makes legality a hypothesis of the model. The
default value shows that such a configuration exists and stands for nothing else. -/
structure LegalConfig where
  cfg : Config := { (default : Config) with rfFreq := [1#32] }
  legal : cfg.Legal := by decide
deriving Inhabited

/-- The open parameters of the machine (R9, R40, R41): those of some legal configuration, fixed for ever, of
which nothing else can be proved. -/
opaque Config.boardLegal : LegalConfig

/-- The configuration every operation of the machine runs with: the open parameters, and the two format tables
the spec decides for (R93, R105; log 12, 13). -/
def Config.board : Config :=
  { Config.boardLegal.cfg with
    layout := Machine.recordLayout
    pairLayout := Machine.counterPairLayout }

end Sys2Proof
end

