-- ==== Sys2Proof/Decode.lean ====
section
/-! DEFINITION. The command codes (R110), the decoder from a request to an operation, total and rejecting
by name, and after it the encoder. The code is the whole encoding; operands are typed values, so decoding
them is checking their number, kinds and ranges. -/

namespace Sys2Proof

/-! ## The command table -/

/-- One row of R110's table in format CMD8: a code `c` selects the row's operation iff
`c &&& mask = bits`. -/
structure OpRow where
  bits : Byte
  mask : Byte
  op : Opcode
deriving DecidableEq, Repr

/-- The command codes of R110. -/
def opcodeTable : List OpRow :=
  [⟨0x01#8, 0xFF#8, .csum8⟩, ⟨0x02#8, 0xFF#8, .crc16⟩,
   ⟨0x10#8, 0xFF#8, .tsUpdate⟩, ⟨0x11#8, 0xFF#8, .tsExpand⟩, ⟨0x12#8, 0xFF#8, .tsPktexp⟩,
   ⟨0x13#8, 0xFF#8, .cntSample⟩, ⟨0x20#8, 0xFF#8, .ppsSave⟩,
   ⟨0x30#8, 0xFF#8, .bufClear⟩, ⟨0x31#8, 0xFF#8, .bufFetch⟩, ⟨0x32#8, 0xFF#8, .bufPop⟩,
   ⟨0x40#8, 0xFF#8, .toa⟩, ⟨0x41#8, 0xFF#8, .corrLegacy⟩, ⟨0x42#8, 0xFF#8, .corrPrec⟩,
   ⟨0x50#8, 0xFF#8, .notch⟩, ⟨0x51#8, 0xFF#8, .ftimeCalc⟩,
   ⟨0x60#8, 0xFF#8, .pktAsm⟩, ⟨0x61#8, 0xFF#8, .receive⟩]

/-- The operation a command code selects, or none (R110, R114). -/
def opcodeOf (code : Byte) : Option Opcode :=
  (opcodeTable.find? fun r => code &&& r.mask == r.bits).map OpRow.op

/-- The mnemonic of an operation as R110's table spells it. -/
def Opcode.mnemonic : Opcode → String
  | .csum8 => "CSUM8"
  | .crc16 => "CRC16"
  | .tsUpdate => "TS_UPDATE"
  | .tsExpand => "TS_EXPAND"
  | .tsPktexp => "TS_PKTEXP"
  | .cntSample => "CNT_SAMPLE"
  | .ppsSave => "PPS_SAVE"
  | .bufClear => "BUF_CLEAR"
  | .bufFetch => "BUF_FETCH"
  | .bufPop => "BUF_POP"
  | .toa => "TOA"
  | .corrLegacy => "CORR_LEGACY"
  | .corrPrec => "CORR_PREC"
  | .notch => "NOTCH"
  | .ftimeCalc => "FTIME_CALC"
  | .pktAsm => "PKT_ASM"
  | .receive => "RECEIVE"

/-! ## Operand values at their types -/

/-- A number at the type `u<w>`, or the rejection `e` where it is outside it. -/
def narrowNum (w n : Nat) (e : Reject) : Except Reject (BitVec w) :=
  if n < 2 ^ w then .ok (BitVec.ofNat w n) else .error e

/-- An integer at the type `i<w>` as its two's complement pattern, or the rejection `e`. -/
def narrowInt (w : Nat) (z : Int) (e : Reject) : Except Reject (BitVec w) :=
  if -2 ^ (w - 1) ≤ z ∧ z < 2 ^ (w - 1) then .ok (BitVec.ofInt w z) else .error e

/-- A list of numbers, each at the type `u<w>`. -/
def narrowNums (w : Nat) (e : Reject) : List Nat → Except Reject (List (BitVec w))
  | [] => .ok []
  | n :: r => do
    let v ← narrowNum w n e
    let vs ← narrowNums w e r
    return v :: vs

/-- A list of integers, each at the type `i<w>`. -/
def narrowInts (w : Nat) (e : Reject) : List Int → Except Reject (List (BitVec w))
  | [] => .ok []
  | z :: r => do
    let v ← narrowInt w z e
    let vs ← narrowInts w e r
    return v :: vs

/-- A byte string at the type `bytes[n]`. -/
def exactBytes (n : Nat) (d : List Byte) (e : Reject) : Except Reject (Vector Byte n) :=
  if h : d.length = n then .ok ⟨d.toArray, by simpa using h⟩ else .error e

/-! ## The decoder -/

/-- The operation with its operands at their types (R110's table, R111). The operands must be of the
table's number and kinds; a 27-bit counter operand out of range is U2, an `sf` outside 5..12 U4 or U5 (by
the final check), any other value outside its type `outsideType`. -/
def decodeOperands : Opcode → List Operand → Except Reject Instr
  | .csum8, [.bytes d] => .ok (.csum8 d)
  | .crc16, [.bytes d] => .ok (.crc16 d)
  | .tsUpdate, [.num pps, .num inst] => do
    let p ← narrowNum 27 pps .counterRange
    let i ← narrowNum 27 inst .counterRange
    return .tsUpdate p i
  | .tsExpand, [.dom d, .num raw] => do
    let r ← narrowNum 27 raw .counterRange
    return .tsExpand d r
  | .tsPktexp, [.num raw] => do
    let r ← narrowNum 27 raw .counterRange
    return .tsPktexp r
  | .cntSample, [.bytes pair] => do
    let p ← exactBytes 8 pair (.outsideType .cntSample)
    return .cntSample p
  | .ppsSave, [.num raw] => do
    let r ← narrowNum 32 raw (.outsideType .ppsSave)
    return .ppsSave r
  | .bufClear, [] => .ok .bufClear
  | .bufFetch, [.num len1, .num len2, .bytes data] => do
    let a ← narrowNum 16 len1 (.outsideType .bufFetch)
    let b ← narrowNum 16 len2 (.outsideType .bufFetch)
    return .bufFetch a b data
  | .bufPop, [] => .ok .bufPop
  | .toa, [.bw bw, .num sf, .num cr, .num nPre, .bit headerEn, .bit crcEn, .num size] => do
    let c ← narrowNum 3 cr (.outsideType .toa)
    let n ← narrowNum 8 size (.outsideType .toa)
    return .toa bw sf c nPre headerEn crcEn n
  | .corrLegacy, [.bw bw, .num sf, .num cr, .bit crcEn, .num size] => do
    let c ← narrowNum 3 cr (.outsideType .corrLegacy)
    let n ← narrowNum 8 size (.outsideType .corrLegacy)
    return .corrLegacy bw sf c crcEn n
  | .corrPrec, [.bw bw, .num sf, .num cr, .bit crcEn, .num size] => do
    let c ← narrowNum 3 cr (.outsideType .corrPrec)
    let n ← narrowNum 8 size (.outsideType .corrPrec)
    return .corrPrec bw sf c crcEn n
  | .notch, [.int ifFreq] => do
    let f ← narrowInt 32 ifFreq (.outsideType .notch)
    return .notch f
  | .ftimeCalc, [.ints metrics, .num m, .num rawTs, .num sf, .int ifFreq, .rat freqError, .num live] => do
    let ms ← narrowInts 8 (.outsideType .ftimeCalc) metrics
    let n ← narrowNum 8 m (.outsideType .ftimeCalc)
    let ts ← narrowNum 32 rawTs (.outsideType .ftimeCalc)
    let f ← narrowInt 32 ifFreq (.outsideType .ftimeCalc)
    let l ← narrowNum 32 live (.outsideType .ftimeCalc)
    return .ftimeCalc ms n ts sf f freqError l
  | .pktAsm, [.num live] => do
    let l ← narrowNum 32 live (.outsideType .pktAsm)
    return .pktAsm l
  | .receive, [.num len1, .num len2, .bytes data, .bytes pair, .nums lives] => do
    let a ← narrowNum 16 len1 (.outsideType .receive)
    let b ← narrowNum 16 len2 (.outsideType .receive)
    let p ← exactBytes 8 pair (.outsideType .receive)
    let ls ← narrowNums 32 (.outsideType .receive) lives
    return .receive a b data p ls
  | op, _ => .error (.operandKinds op)

/-- The operation a request invokes, with its preconditions checked, or the precondition it breaks
(R110, R114, R280). -/
def decode (r : Request) : Except Reject Instr :=
  match opcodeOf r.code with
  | none => .error (.unknownCommand r.code)
  | some op =>
    match decodeOperands op r.operands with
    | .error e => .error e
    | .ok i =>
      match i.check with
      | some e => .error e
      | none => .ok i

/-! ## The encoder -/

/-- The operation of an `Instr`. -/
def Instr.opcode : Instr → Opcode
  | .csum8 _ => .csum8
  | .crc16 _ => .crc16
  | .tsUpdate _ _ => .tsUpdate
  | .tsExpand _ _ => .tsExpand
  | .tsPktexp _ => .tsPktexp
  | .cntSample _ => .cntSample
  | .ppsSave _ => .ppsSave
  | .bufClear => .bufClear
  | .bufFetch _ _ _ => .bufFetch
  | .bufPop => .bufPop
  | .toa _ _ _ _ _ _ _ => .toa
  | .corrLegacy _ _ _ _ _ => .corrLegacy
  | .corrPrec _ _ _ _ _ => .corrPrec
  | .notch _ => .notch
  | .ftimeCalc _ _ _ _ _ _ _ => .ftimeCalc
  | .pktAsm _ => .pktAsm
  | .receive _ _ _ _ _ => .receive

/-- The command code of an operation (R110). -/
def Opcode.code : Opcode → Byte
  | .csum8 => 0x01#8
  | .crc16 => 0x02#8
  | .tsUpdate => 0x10#8
  | .tsExpand => 0x11#8
  | .tsPktexp => 0x12#8
  | .cntSample => 0x13#8
  | .ppsSave => 0x20#8
  | .bufClear => 0x30#8
  | .bufFetch => 0x31#8
  | .bufPop => 0x32#8
  | .toa => 0x40#8
  | .corrLegacy => 0x41#8
  | .corrPrec => 0x42#8
  | .notch => 0x50#8
  | .ftimeCalc => 0x51#8
  | .pktAsm => 0x60#8
  | .receive => 0x61#8

/-- The operand values of an operation in the order of R110's table. -/
def Instr.operands : Instr → List Operand
  | .csum8 d => [.bytes d]
  | .crc16 d => [.bytes d]
  | .tsUpdate pps inst => [.num pps.toNat, .num inst.toNat]
  | .tsExpand d raw => [.dom d, .num raw.toNat]
  | .tsPktexp raw => [.num raw.toNat]
  | .cntSample pair => [.bytes pair.toList]
  | .ppsSave raw => [.num raw.toNat]
  | .bufClear => []
  | .bufFetch len1 len2 data => [.num len1.toNat, .num len2.toNat, .bytes data]
  | .bufPop => []
  | .toa bw sf cr nPre headerEn crcEn size =>
    [.bw bw, .num sf, .num cr.toNat, .num nPre, .bit headerEn, .bit crcEn, .num size.toNat]
  | .corrLegacy bw sf cr crcEn size => [.bw bw, .num sf, .num cr.toNat, .bit crcEn, .num size.toNat]
  | .corrPrec bw sf cr crcEn size => [.bw bw, .num sf, .num cr.toNat, .bit crcEn, .num size.toNat]
  | .notch f => [.int f.toInt]
  | .ftimeCalc metrics m ts sf f fe live =>
    [.ints (metrics.map BitVec.toInt), .num m.toNat, .num ts.toNat, .num sf, .int f.toInt, .rat fe,
     .num live.toNat]
  | .pktAsm live => [.num live.toNat]
  | .receive len1 len2 data pair lives =>
    [.num len1.toNat, .num len2.toNat, .bytes data, .bytes pair.toList,
     .nums (lives.map BitVec.toNat)]

/-- The request that invokes an operation. -/
def encode (i : Instr) : Request := ⟨i.opcode.code, i.operands⟩

/-! ## The words of the opcode table -/

/-- The operands that go with a code of which only the eight bits are given: every number 0, every bit
false, every string and list as short as its type allows and all zero; an operand whose type or
precondition excludes that takes its least legal value (`sf` 5, `m` 1, `bw` BW125). DESIGN CHOICE: the
spec gives operands no bits (log 2). -/
def zeroOperands : Opcode → List Operand
  | .csum8 => [.bytes []]
  | .crc16 => [.bytes []]
  | .tsUpdate => [.num 0, .num 0]
  | .tsExpand => [.dom .inst, .num 0]
  | .tsPktexp => [.num 0]
  | .cntSample => [.bytes (List.replicate 8 0#8)]
  | .ppsSave => [.num 0]
  | .bufClear => []
  | .bufFetch => [.num 0, .num 0, .bytes []]
  | .bufPop => []
  | .toa => [.bw .bw125, .num 5, .num 0, .num 0, .bit false, .bit false, .num 0]
  | .corrLegacy => [.bw .bw125, .num 5, .num 0, .bit false, .num 0]
  | .corrPrec => [.bw .bw125, .num 5, .num 0, .bit false, .num 0]
  | .notch => [.int 0]
  | .ftimeCalc => [.ints [0, 0], .num 1, .num 0, .num 5, .int 0, .rat 0, .num 0]
  | .pktAsm => [.num 0]
  | .receive => [.num 0, .num 0, .bytes [], .bytes (List.replicate 8 0#8), .nums []]

/-- The request whose command code is the low byte of the `nbits` low bits of `w`, with the operands of
`zeroOperands`; an unknown code has no operands. -/
def requestOfWord (nbits w : Nat) : Request :=
  let code := BitVec.ofNat 8 (w % 2 ^ nbits)
  ⟨code, ((opcodeOf code).map zeroOperands).getD []⟩

/-- The operation the decoder reads from a word of the opcode table, numbered as the table numbers its
bits: bits 7..0 are the command code, the whole encoding of format CMD8 (R110). -/
def decodeTableWord (nbits w : Nat) : Option Instr :=
  (decode (requestOfWord nbits w)).toOption

end Sys2Proof
end

