-- ==== Sys2Proof/Machine/Flags.lean ====
section
/-! DEFINITION. The status codes (R270) and the flag computations: STATUS is the engine's only flag
register (R23), and "CRC passed" the only derived per-packet flag (R246). -/

namespace Sys2Proof.Machine

/-- The status code of success (R270). -/
def statusOk : BitVec 8 := 0#8

/-- The status code of each failure (R270). -/
def failureCode : Failure → BitVec 8
  | .malformedBuffer => 1#8
  | .checksumMismatch => 2#8
  | .outOfRangeMetadata => 3#8
  | .crc16Mismatch => 4#8
  | .insufficientHistory => 5#8
  | .crystalErrorOutOfRange => 6#8
  | .fineTimestampOverflow => 7#8

/-- `crc_passed` (R246): the record carries a CRC and the chip's own error flag is clear. For LoRa the
comparison of R245 has matched before this is asked. -/
def crcPassed (p : DecodedPacket) : Bool := p.crcEn && !p.crcError

end Sys2Proof.Machine
end

