-- ==== Sys2Proof/Machine/Ops.lean ====
section
/-! DEFINITION. The named operations over the buffer memory, the ring and the domains; completing an
operation, and failing one, which is all that an exception is in this engine (R276); taking the host's next
request. -/

namespace Sys2Proof.Machine

open Sys2Proof.Params

/-! ## The raw buffer as memory (R24, R60) -/

/-- What an address of the buffer that is not listed reads as. DESIGN CHOICE: the contents at reset are
unspecified and unobservable (R47, U7); log 4. -/
def unlistedByte : Byte := 0#8

/-- The byte at an address of the buffer. -/
def memRead : List Host.Cell → Nat → Byte
  | [], _ => unlistedByte
  | (b, v) :: r, a => if a = b then v else memRead r a

/-- The list with `v` at the address `a`; an entry equal to what an unlisted address reads as is left
out. -/
def memWrite : List Host.Cell → Nat → Byte → List Host.Cell
  | [], a, v => if v = unlistedByte then [] else [(a, v)]
  | (b, w) :: r, a, v =>
    if a < b then
      if v = unlistedByte then (b, w) :: r else (a, v) :: (b, w) :: r
    else if a = b then
      if v = unlistedByte then r else (a, v) :: r
    else (b, w) :: memWrite r a v

/-- The list with the bytes of `d` at the addresses from `a` on, byte by byte (R12 MemWrite, R171). -/
def memWriteAll (mem : List Host.Cell) (a : Nat) : List Byte → List Host.Cell
  | [] => mem
  | v :: d => memWriteAll (memWrite mem a v) (a + 1) d

/-- The canonical form from a lower bound on: addresses strictly rising, inside the buffer, and no entry
equal to what an unlisted address reads as. -/
def memWfFrom : Nat → List Host.Cell → Bool
  | _, [] => true
  | lo, (a, v) :: r => decide (lo ≤ a) && decide (a < bufCap) && (v != unlistedByte) && memWfFrom (a + 1) r

/-- The canonical form of the buffer memory. -/
def memWf (mem : List Host.Cell) : Bool := memWfFrom 0 mem

/-- The `n` bytes at `a`. -/
def bytesAt (rd : Nat → Byte) (a : Nat) : Nat → List Byte
  | 0 => []
  | n + 1 => rd a :: bytesAt rd (a + 1) n

/-- `BUF[a]` (R12). -/
def State.byte (s : State) (a : Nat) : Byte := memRead s.buf a

/-! ## Completing and failing (R42, R43, R276) -/

/-- Completing an operation: `STATUS <- 0` as the last action, and its results to the host. -/
def State.finish (s : State) (r : Option Result) : State :=
  { s with status := statusOk, output := r }

/-- Failing an operation, the engine's only exception (R276): `STATUS <- code` and no result. Nothing is
saved, no control is transferred, and there is no return from it (R279). -/
def State.fail (s : State) (f : Failure) : State :=
  { s with status := failureCode f, output := none }

/-- The outcome of an operation that ends with a result or a failure in the state `s`. -/
def State.conclude (s : State) : Except Failure Result → Host.Outcome State Fault Refusal
  | .ok r => .next (s.finish (some r))
  | .error f => .next (s.fail f)

/-- Refusing an operation whose operands break a precondition (R280). -/
def refusePrecondition (r : Reject) : Host.Outcome State Fault Refusal :=
  .refused (.precondition r)

/-! ## The buffer group -/

/-- `size <- 0; cursor <- 0; packet_count <- 0` (R170). -/
def State.clearBuffer (s : State) : State :=
  { s with size := 0#13, cursor := 0#13, packetCount := 0#8 }

/-- The effects of a successful pop of a record of length `r` (R180): the cursor advances and the count
goes down by one unless it is 0. -/
def State.popped (s : State) (r : Nat) : State :=
  { s with
    cursor := BitVec.ofNat 13 (s.cursor.toNat + r)
    packetCount := if s.packetCount = 0#8 then 0#8 else s.packetCount - 1#8 }

/-! ## The domain group -/

/-- The domain of a name (R29). -/
def State.domain (s : State) : DomainName → TimestampDomain
  | .inst => s.inst
  | .pps => s.pps

/-- One domain of TS_UPDATE (R141): a raw value below the reference counts a wrap, modulo 32; the reference
becomes the raw value. -/
def TimestampDomain.update (d : TimestampDomain) (raw : Raw27) : TimestampDomain :=
  ⟨raw, if raw < d.ref then d.wrap + 1#5 else d.wrap⟩

/-- `(wrap << 27) | raw` (R143). -/
def expandWith (wrap : BitVec 5) (raw : Raw27) : Word := wrap ++ raw

/-! ## The ring group -/

/-- `SLOT[i]` (R32). -/
def State.slotAt (s : State) (i : BitVec 4) : Word := s.slot.get i.toFin

/-- Storing a PPS snapshot (R161): stored unless the ring has an entry and the newest one equals it; the
index advances modulo 16 before the store; the fill count stops at 16. -/
def State.savePps (s : State) (raw : Word) : State :=
  if s.fill = 0#5 ∨ raw ≠ s.slotAt s.widx then
    { s with
      widx := s.widx + 1#4
      slot := s.slot.set (s.widx + 1#4).toFin raw
      fill := if s.fill < 16#5 then s.fill + 1#5 else s.fill }
  else s

/-! ## The host's requests -/

/-- The oldest request the engine has not begun, and the state without it. -/
def State.takeRequest (s : State) : Option (Request × State) :=
  match s.port with
  | [] => none
  | r :: rest => some (r, { s with port := rest })

/-- The state with a request placed where the next step takes one. -/
def State.placeRequest (s : State) (r : Request) : State := { s with port := r :: s.port }

end Sys2Proof.Machine
end

