-- ==== Sys2Proof/Machine/Codec.lean ====
section
/-! DEFINITION. The checksum and CRC16 codec: CSUM8 (R130) and CRC16 (R132). -/

namespace Sys2Proof.Machine

open Sys2Proof.Params

/-- `CSUM8(d)` (R130): the byte sum modulo 256. -/
def csum8 (d : List Byte) : Byte := BitVec.ofNat 8 (d.map BitVec.toNat).sum

/-- `CRC16_FN(d)` (R132): the fold of the configuration's step over the bytes, in order. -/
def crc16 (c : Config) (d : List Byte) : Half := d.foldl c.crcStep c.crcInit

/-- CRC16 under a configuration (R132): an operand of at most 255 bytes. -/
def crc16With (c : Config) (d : List Byte) (s : State) : Host.Outcome State Fault Refusal :=
  if d.length ≤ payloadMax then .next (s.finish (some (.crc (crc16 c d))))
  else refusePrecondition (.outsideType .crc16)

/-- CSUM8 (R130). -/
def execCsum8 (d : List Byte) (s : State) : Host.Outcome State Fault Refusal :=
  .next (s.finish (some (.sum (csum8 d))))

/-- CRC16 (R132). -/
def execCrc16 (d : List Byte) (s : State) : Host.Outcome State Fault Refusal :=
  crc16With Config.board d s

end Sys2Proof.Machine
end

