-- ==== Sys2Proof/Machine/Buffer.lean ====
section
/-! DEFINITION. The raw buffer parser and framer: BUF_CLEAR (R170), BUF_FETCH (R171 to R176), BUF_POP (R177
to R183). -/

namespace Sys2Proof.Machine

open Sys2Proof.Params

/-! ## Framing one record -/

/-- What stands at an offset where a record is expected (R174, R175, R178). -/
inductive Frame where
  /-- Fewer than two bytes below `size`, or no sync word. -/
  | noSync
  /-- A sync word, but the payload_len byte, the num_metrics byte or the record's end is not below
  `size`. -/
  | incomplete
  /-- A complete record with payload length `n` and metric count `m`. -/
  | complete (n m : Nat)
deriving DecidableEq, Repr

/-- The sync word at `c` (R90). -/
def syncAt (l : RecordLayout) (rd : Nat → Byte) (c : Nat) : Bool :=
  fieldBits l rd c 0 0 .sync0 8 == sync0 && fieldBits l rd c 0 0 .sync1 8 == sync1

/-- The record at `c` among `size` valid bytes. No byte at or beyond `size` is read: each read is preceded by
the check that its field ends below `size` (R66, R104). -/
def frameAt (l : RecordLayout) (rd : Nat → Byte) (size c : Nat) : Frame :=
  if size < fieldEnd l c 0 0 .sync0 ∨ size < fieldEnd l c 0 0 .sync1 then .noSync
  else if !syncAt l rd c then .noSync
  else if size < fieldEnd l c 0 0 .payloadLen then .incomplete
  else
    let n := fieldNat l rd c 0 0 .payloadLen
    if size < fieldEnd l c n 0 .numMetrics then .incomplete
    else
      let m := fieldNat l rd c n 0 .numMetrics
      if size < c + recLen n m then .incomplete else .complete n m

/-! ## Fetching -/

/-- The least offset at which the sync word stands in a byte string (R173). -/
def findSync : List Byte → Option Nat
  | a :: b :: r => if a = sync0 ∧ b = sync1 then some 0 else (findSync (b :: r)).map (· + 1)
  | _ => none

/-- The walk (R174, R175): the number of complete records from `idx` on, added to `count`, or none where a
sync word is not found at a boundary. Each pass moves `idx` by at least 23, so a fuel of `size` is never
used up. -/
def walk (l : RecordLayout) (rd : Nat → Byte) (size : Nat) : Nat → Nat → Nat → Option Nat
  | 0, _, count => some count
  | fuel + 1, idx, count =>
    if idx < size then
      match frameAt l rd size idx with
      | .noSync => none
      | .incomplete => some count
      | .complete n m => walk l rd size fuel (idx + recLen n m) (count + 1)
    else some count

/-- The state with the bytes of `d` in the buffer from address 0 on and `size` at their number (R171,
R173). -/
def State.load (s : State) (d : List Byte) : State :=
  { s with buf := memWriteAll s.buf 0 d, size := BitVec.ofNat 13 d.length }

/-- BUF_FETCH on legal operands (R171): the state it leaves, and the new `packet_count` or the failure. -/
def State.fetch (l : RecordLayout) (s : State) (data : List Byte) : State × Except Failure Byte :=
  let s0 := s.clearBuffer
  if data.length < minLen then (s0, .ok 0#8)
  else
    match findSync data with
    | none => (s0, .error .malformedBuffer)
    | some k =>
      let s1 := s0.load (data.drop k)
      match walk l s1.byte (data.length - k) (data.length - k) 0 0 with
      | none => (s1.clearBuffer, .error .malformedBuffer)
      | some n => ({ s1 with packetCount := BitVec.ofNat 8 n }, .ok (BitVec.ofNat 8 n))

/-! ## Popping -/

/-- The DecodedPacket of the complete record at `c` (R183). -/
def extract (l : RecordLayout) (rd : Nat → Byte) (c n m : Nat) : DecodedPacket where
  payloadLen := BitVec.ofNat 8 n
  channel := fieldBits l rd c n m .channel 8
  crcEn := fieldFlag l rd c n m .crcEn
  codingRate := fieldBits l rd c n m .codingRate 3
  datarate := fieldBits l rd c n m .datarate 4
  modemId := fieldBits l rd c n m .modemId 8
  freqOffset := (fieldBits l rd c n m .freqOffset 20).toInt
  crcError := fieldFlag l rd c n m .crcError
  syncError := fieldFlag l rd c n m .syncError
  headerError := fieldFlag l rd c n m .headerError
  timingSet := fieldFlag l rd c n m .timingSet
  snrAvg := fieldBits l rd c n m .snrAvg 8
  rssiChanAvg := fieldBits l rd c n m .rssiChanAvg 8
  rssiSigAvg := fieldBits l rd c n m .rssiSigAvg 8
  rssiChanNegDelta := fieldBits l rd c n m .rssiChanNegDelta 4
  rssiChanPosDelta := fieldBits l rd c n m .rssiChanPosDelta 4
  rssiSigNegDelta := fieldBits l rd c n m .rssiSigNegDelta 4
  rssiSigPosDelta := fieldBits l rd c n m .rssiSigPosDelta 4
  timestamp := fieldBits l rd c n m .timestamp 32
  crc16 := fieldBits l rd c n m .crc16 16
  numMetrics := BitVec.ofNat 8 m
  metrics := bytesAt rd (fieldOffset l c n m .metric) (metricBytes * m)
  payload := bytesAt rd (fieldOffset l c n m .payload) n

/-- The checksum of the record at `c` is valid (R131): the sum of all its bytes but the last is the checksum
byte, which is the last (R92). -/
def checksumOk (l : RecordLayout) (rd : Nat → Byte) (c n m : Nat) : Bool :=
  csum8 (bytesAt rd c (recLen n m - 1)) == fieldBits l rd c n m .checksum 8

/-- The sanity checks of BUF_POP (R181): the modem id, and for a LoRa modem id the channel and the SF
code. -/
def metadataLegal (p : DecodedPacket) : Bool :=
  p.modemId.toNat ≤ modemIdMax
    && (loraModemIdMax < p.modemId.toNat
      || (p.channel.toNat ≤ channelMax && sfMin ≤ p.datarate.toNat && p.datarate.toNat ≤ sfMax))

/-- BUF_POP's parse of the record at the cursor (R177): the packet and the record length, or the first
failure in the order of the checks (R275). It writes nothing. -/
def State.parse (l : RecordLayout) (s : State) : Except Failure (DecodedPacket × Nat) :=
  let c := s.cursor.toNat
  match frameAt l s.byte s.size.toNat c with
  | .noSync => .error .malformedBuffer
  | .incomplete => .error .malformedBuffer
  | .complete n m =>
    if checksumOk l s.byte c n m then
      let p := extract l s.byte c n m
      if metadataLegal p then .ok (p, recLen n m) else .error .outOfRangeMetadata
    else .error .checksumMismatch

/-- The guard of every buffer read: a state whose `size` exceeds the buffer asks for bytes that do not exist
(R24, R37; log 15). -/
def State.withBuffer (s : State) (k : Host.Outcome α Fault Refusal) : Host.Outcome α Fault Refusal :=
  if s.size.toNat ≤ bufCap then k else .fault .bufferAddress

/-! ## The operations -/

/-- BUF_CLEAR (R170). -/
def execBufClear (s : State) : Host.Outcome State Fault Refusal :=
  .next (s.clearBuffer.finish none)

/-- BUF_FETCH under a configuration (R171). -/
def bufFetchWith (c : Config) (len1 len2 : Half) (data : List Byte) (s : State) :
    Host.Outcome State Fault Refusal :=
  if FetchLegal len1 len2 data then
    (s.fetch c.layout data).1.conclude ((s.fetch c.layout data).2.map .count)
  else refusePrecondition .fetchOperands

/-- BUF_POP under a configuration (R177). A failure changes nothing but STATUS (R182). -/
def bufPopWith (c : Config) (s : State) : Host.Outcome State Fault Refusal :=
  s.withBuffer <|
    match s.parse c.layout with
    | .ok (p, r) => .next ((s.popped r).finish (some (.packet p)))
    | .error f => .next (s.fail f)

/-- BUF_FETCH (R171). -/
def execBufFetch (len1 len2 : Half) (data : List Byte) (s : State) : Host.Outcome State Fault Refusal :=
  bufFetchWith Config.board len1 len2 data s

/-- BUF_POP (R177). -/
def execBufPop (s : State) : Host.Outcome State Fault Refusal := bufPopWith Config.board s

/-- BUF_DISCARD (R117): the request it expands to. -/
def bufDiscard : Request := encode .bufClear

end Sys2Proof.Machine
end

