-- ==== Sys2Proof/Machine/Counters.lean ====
section
/-! DEFINITION. The timestamp counter domain: TS_UPDATE (R141), TS_EXPAND (R143), TS_PKTEXP (R145),
CNT_SAMPLE (R147), and the pseudo-operations over them (R117). -/

namespace Sys2Proof.Machine

/-- Both domains take a new raw value (R141); neither reads the other (R29). -/
def State.tsUpdate (s : State) (ppsRaw instRaw : Raw27) : State :=
  { s with pps := s.pps.update ppsRaw, inst := s.inst.update instRaw }

/-- The wrap counter TS_PKTEXP uses (R145): the current one where the reference is at or above the packet's
raw value, the one before it, modulo 32, otherwise. -/
def pktWrap (d : TimestampDomain) (pktRaw : Raw27) : BitVec 5 :=
  if pktRaw ≤ d.ref then d.wrap else d.wrap - 1#5

/-- The expanded time of a packet's raw value (R145), in the `inst` domain. -/
def State.pktExpand (s : State) (pktRaw : Raw27) : Word := expandWith (pktWrap s.inst pktRaw) pktRaw

/-- The state changes of CNT_SAMPLE (R147): the ring takes the raw32 PPS value, then the domains the raw27
values. -/
def State.sampleCounters (l : PairLayout) (s : State) (pair : Vector Byte 8) : State :=
  (s.savePps (pairPps l pair)).tsUpdate (raw27Of (pairPps l pair)) (raw27Of (pairInst l pair))

/-- `inst_us` and `pps_us` (R147), read in the state after the update. -/
def State.sampledUs (l : PairLayout) (s : State) (pair : Vector Byte 8) : Word × Word :=
  (expandWith s.inst.wrap (raw27Of (pairInst l pair)), expandWith s.pps.wrap (raw27Of (pairPps l pair)))

/-- TS_UPDATE (R141). -/
def execTsUpdate (ppsRaw instRaw : Raw27) (s : State) : Host.Outcome State Fault Refusal :=
  .next ((s.tsUpdate ppsRaw instRaw).finish none)

/-- TS_EXPAND (R143). -/
def execTsExpand (dom : DomainName) (raw : Raw27) (s : State) : Host.Outcome State Fault Refusal :=
  .next (s.finish (some (.expanded (expandWith (s.domain dom).wrap raw))))

/-- TS_PKTEXP (R145). -/
def execTsPktexp (pktRaw : Raw27) (s : State) : Host.Outcome State Fault Refusal :=
  .next (s.finish (some (.expanded (s.pktExpand pktRaw))))

/-- CNT_SAMPLE under a configuration (R147). -/
def cntSampleWith (c : Config) (pair : Vector Byte 8) (s : State) : Host.Outcome State Fault Refusal :=
  let t := s.sampleCounters c.pairLayout pair
  let us := t.sampledUs c.pairLayout pair
  .next (t.finish (some (.sample us.1 us.2)))

/-- CNT_SAMPLE (R147). -/
def execCntSample (pair : Vector Byte 8) (s : State) : Host.Outcome State Fault Refusal :=
  cntSampleWith Config.board pair s

/-- EXPAND_INST (R117): the request it expands to. -/
def expandInst (pair : Vector Byte 8) : Request := encode (.cntSample pair)

/-- The result EXPAND_INST keeps of CNT_SAMPLE's (R117). -/
def keepInst : Result → Option Word
  | .sample instUs _ => some instUs
  | _ => none

/-- EXPAND_PPS (R117): the request it expands to. -/
def expandPps (pair : Vector Byte 8) : Request := encode (.cntSample pair)

/-- The result EXPAND_PPS keeps of CNT_SAMPLE's (R117). -/
def keepPps : Result → Option Word
  | .sample _ ppsUs => some ppsUs
  | _ => none

end Sys2Proof.Machine
end

