-- ==== Sys2Proof/Machine/Fine.lean ====
section
/-! DEFINITION. The fine timestamp engine: NOTCH (R220) and FTIME_CALC (R223 to R233). All arithmetic is on
exact integers and rationals unless a modulus is written (R404). -/

namespace Sys2Proof.Machine

open Sys2Proof.Params

/-- The DC-notch delay in ticks (R220): the quartic of the IF frequency in kHz, zero outside ±75 kHz. -/
def notchDelay (c : Config) (ifFreqHz : Word) : ℚ :=
  let k : ℚ := (ifFreqHz.toInt : ℚ) / 1000
  if k < -notchRangeKhz ∨ notchRangeKhz < k then 0
  else c.notchC4 * k ^ 4 + c.notchC3 * k ^ 3 + c.notchC2 * k ^ 2 + c.notchC1 * k + c.notchC0

/-- `off` of step 2 (R225, R226). -/
def alignOffset (sf : Nat) : Nat :=
  256 * 2 ^ sf * (8 + 4 + (if sf = 5 ∨ sf = 6 then 2 else 0)) + 256 * (2 ^ sf / 4 - 1)

/-- `aligned` of step 2 (R225): the raw timestamp less the adjusted offset, plus the group delay, modulo
`2^32`. -/
def alignedTimestamp (rawTs : Word) (sf : Nat) (freqError : ℚ) : Word :=
  let off := alignOffset sf
  let adj : Int := off + roundHu (off * freqError)
  BitVec.ofInt 32 (rawTs.toNat - adj + groupDelay)

/-- The largest number of metrics used (R227). -/
def metricClip (sf : Nat) : Nat :=
  if sf = 12 then 4 else if sf = 11 then 8 else if sf = 10 then 16 else 32

/-- The running cumulative sums of a list of deltas, from an initial value (R227). -/
def cumulative (acc : Int) : List Int → List Int
  | [] => []
  | d :: r => (acc + d) :: cumulative (acc + d) r

/-- The metric mean of step 3 (R227): the mean of the cumulative sums of the first `2·m_c` signed deltas. -/
def metricMean (metrics : List Byte) (m sf : Nat) : ℚ :=
  let k := 2 * min m (metricClip sf)
  ((cumulative 0 ((metrics.take k).map BitVec.toInt)).sum : ℚ) / k

/-- The first slot, in index order, that holds an edge at or before the aligned timestamp and less than one
second before it (R229). -/
def State.findEdge (s : State) (aligned : Word) : Option (Fin 16) :=
  (List.finRange 16).find? fun i => sub32 aligned (s.slot.get i) < tickHz

/-- The reference of step 4 (R228, R229): the reference value and the slot whose interval step 5 takes. -/
def State.reference (s : State) (aligned livePps : Word) : Except Failure (Word × BitVec 4) :=
  if tickHz < sub32 aligned livePps then
    match s.findEdge aligned with
    | some i => .ok (s.slot.get i, BitVec.ofFin i)
    | none => .error .insufficientHistory
  else .ok (livePps, s.widx)

/-- The PPS interval that ends at a slot, in ticks (R230). -/
def State.interval (s : State) (j : BitVec 4) : Nat := sub32 (s.slotAt j) (s.slotAt (j - 1#4))

/-- The crystal-error factor of step 5 (R230). -/
def crystalFactor (interval : Nat) : Except Failure ℚ :=
  if interval = 0 then .error .crystalErrorOutOfRange
  else
    let xtal : ℚ := tickHz / interval
    if xtal < xtalMin ∨ xtalMax < xtal then .error .crystalErrorOutOfRange else .ok xtal

/-- `t` of step 6 (R231): the fine offset in nanoseconds. -/
def fineOffsetNs (c : Config) (aligned ref : Word) (mean : ℚ) (ifFreqHz : Word) (xtal : ℚ) : ℚ :=
  (sub32 aligned ref + mean + notchDelay c ifFreqHz) * nsPerTick * xtal

/-- The result of step 6 (R232): the floor of `t` where it lies in `[0, 10^9)`. -/
def fineResult (t : ℚ) : Except Failure Word :=
  if t < 0 ∨ (ftimeLimit : ℚ) ≤ t then .error .fineTimestampOverflow
  else .ok (BitVec.ofNat 32 ⌊t⌋.toNat)

/-- The six steps of FTIME_CALC, on legal operands (R223), with the failures in the order of the steps
(R233). It writes nothing. -/
def State.fineTime (c : Config) (s : State) (metrics : List Byte) (m : Byte) (rawTs : Word) (sf : Nat)
    (ifFreqHz : Word) (freqError : ℚ) (livePps : Word) : Except Failure Word :=
  if s.fill < 16#5 then .error .insufficientHistory
  else
    let aligned := alignedTimestamp rawTs sf freqError
    let mean := metricMean metrics m.toNat sf
    match s.reference aligned livePps with
    | .error f => .error f
    | .ok (ref, j) =>
      match crystalFactor (s.interval j) with
      | .error f => .error f
      | .ok xtal => fineResult (fineOffsetNs c aligned ref mean ifFreqHz xtal)

/-- NOTCH under a configuration (R220). -/
def notchWith (c : Config) (ifFreqHz : Word) (s : State) : Host.Outcome State Fault Refusal :=
  .next (s.finish (some (.delay (notchDelay c ifFreqHz))))

/-- FTIME_CALC under a configuration (R223). -/
def ftimeCalcWith (c : Config) (metrics : List Byte) (m : Byte) (rawTs : Word) (sf : Nat) (ifFreqHz : Word)
    (freqError : ℚ) (livePps : Word) (s : State) : Host.Outcome State Fault Refusal :=
  if FineLegal metrics m sf then
    s.conclude ((s.fineTime c metrics m rawTs sf ifFreqHz freqError livePps).map .fine)
  else refusePrecondition .fineOperands

/-- NOTCH (R220). -/
def execNotch (ifFreqHz : Word) (s : State) : Host.Outcome State Fault Refusal :=
  notchWith Config.board ifFreqHz s

/-- FTIME_CALC (R223). -/
def execFtimeCalc (metrics : List Byte) (m : Byte) (rawTs : Word) (sf : Nat) (ifFreqHz : Word)
    (freqError : ℚ) (livePps : Word) (s : State) : Host.Outcome State Fault Refusal :=
  ftimeCalcWith Config.board metrics m rawTs sf ifFreqHz freqError livePps s

end Sys2Proof.Machine
end

