-- ==== Sys2Proof/Machine/Timing.lean ====
section
/-! DEFINITION. The timing correction models: TOA (R200), CORR_LEGACY (R206), CORR_PREC (R209). -/

namespace Sys2Proof.Machine

/-- The symbol duration in microseconds (R201). -/
def symbolUs (bw : Bandwidth) (sf : Nat) : Nat := 2 ^ sf * 8 / bwDivisor bw

/-- The low-datarate optimization flag `de` of R200. -/
def lowDatarate (sf : Nat) : Nat := if 11 ≤ sf then 1 else 0

/-- `bits` of R200: an integer, possibly negative. `crc_bits` is 16 or 0 (R202). -/
def headerBits (sf : Nat) (headerEn crcEn : Bool) (size : Byte) : Int :=
  8 * size.toNat + (if crcEn then 16 else 0) - 4 * sf + (if 7 ≤ sf then 8 else 0)
    + 20 * (if headerEn then 1 else 0)

/-- The payload symbol count (R202), with the factor `cr + 4` of any 3-bit code. -/
def payloadSymbols (sf : Nat) (cr : BitVec 3) (headerEn crcEn : Bool) (size : Byte) : Nat :=
  ceilDiv (max 0 (headerBits sf headerEn crcEn size)).toNat (4 * (sf - 2 * lowDatarate sf))
    * (cr.toNat + 4)

/-- The time-on-air formula (R200, R203). -/
def timeOnAir (bw : Bandwidth) (sf : Nat) (cr : BitVec 3) (nPre : Nat) (headerEn crcEn : Bool)
    (size : Byte) : ToaResult :=
  let nPay := payloadSymbols sf cr headerEn crcEn size
  let nTotal : ℚ := nPre + (if 7 ≤ sf then 17 / 4 else 25 / 4) + 8 + nPay
  { tSym := symbolUs bw sf
    nPay := nPay
    nTotal := nTotal
    duration := nTotal * symbolUs bw sf }

/-- LEGACY_CORR_FN (R206, R207): minus the configuration's magnitude, hence above `−2^31` and at most 0. -/
def legacyCorrection (c : Config) (bw : Bandwidth) (sf : Nat) (cr : BitVec 3) (crcEn : Bool)
    (size : Byte) : Int :=
  -((c.legacyAdvance bw sf cr crcEn size).val : Int)

/-- The precision correction (R209): the payload symbols, with an explicit header, times the symbol
duration, plus FILT_US. -/
def precisionCorrection (c : Config) (bw : Bandwidth) (sf : Nat) (cr : BitVec 3) (crcEn : Bool)
    (size : Byte) : Int :=
  let r := timeOnAir bw sf cr 0 true crcEn size
  r.nPay * r.tSym + c.filtUs bw

/-- CORR_LEGACY under a configuration (R206). -/
def corrLegacyWith (c : Config) (bw : Bandwidth) (sf : Nat) (cr : BitVec 3) (crcEn : Bool) (size : Byte)
    (s : State) : Host.Outcome State Fault Refusal :=
  if SfLegal sf then .next (s.finish (some (.correction (legacyCorrection c bw sf cr crcEn size))))
  else refusePrecondition .correctionOperands

/-- CORR_PREC under a configuration (R209). -/
def corrPrecWith (c : Config) (bw : Bandwidth) (sf : Nat) (cr : BitVec 3) (crcEn : Bool) (size : Byte)
    (s : State) : Host.Outcome State Fault Refusal :=
  if SfLegal sf then .next (s.finish (some (.correction (precisionCorrection c bw sf cr crcEn size))))
  else refusePrecondition .correctionOperands

/-- TOA (R200, R204). -/
def execToa (bw : Bandwidth) (sf : Nat) (cr : BitVec 3) (nPre : Nat) (headerEn crcEn : Bool) (size : Byte)
    (s : State) : Host.Outcome State Fault Refusal :=
  if SfLegal sf then .next (s.finish (some (.airtime (timeOnAir bw sf cr nPre headerEn crcEn size))))
  else refusePrecondition .correctionOperands

/-- CORR_LEGACY (R206). -/
def execCorrLegacy (bw : Bandwidth) (sf : Nat) (cr : BitVec 3) (crcEn : Bool) (size : Byte) (s : State) :
    Host.Outcome State Fault Refusal :=
  corrLegacyWith Config.board bw sf cr crcEn size s

/-- CORR_PREC (R209). -/
def execCorrPrec (bw : Bandwidth) (sf : Nat) (cr : BitVec 3) (crcEn : Bool) (size : Byte) (s : State) :
    Host.Outcome State Fault Refusal :=
  corrPrecWith Config.board bw sf cr crcEn size s

end Sys2Proof.Machine
end

