-- ==== Sys2Proof/Machine/Assembler.lean ====
section
/-! DEFINITION. The packet assembler: PKT_ASM (R240 to R255, R260 to R262) and RECEIVE (R256 to R258). -/

namespace Sys2Proof.Machine

open Sys2Proof.Params

/-! ## The parts of a record -/

/-- The channel's capability is a LoRa one (R243). -/
def isLora : IfMod → Bool
  | .loraMulti => true
  | .loraStd => true
  | .fsk => false

/-- `lora_ok` of R240: a LoRa channel and an SF code in 5..12 (R261). -/
def loraOk (kind : IfMod) (p : DecodedPacket) : Bool :=
  isLora kind && decide (SfLegal p.datarate.toNat)

/-- The CRC16 comparison rejects the packet (R245): on a LoRa channel, exactly where `crc_en = 1`. -/
def crc16Rejects (c : Config) (kind : IfMod) (p : DecodedPacket) : Bool :=
  isLora kind && p.crcEn && crc16 c p.payload != p.crc16

/-- Both raw codes have a semantic value (R247), on a LoRa channel (R255). -/
def codesLegal (kind : IfMod) (p : DecodedPacket) : Bool :=
  loraOk kind p && decide (crMin ≤ p.codingRate.toNat ∧ p.codingRate.toNat ≤ crMax)

/-- `round_trip` (R249): what the IF frequency register reads back. -/
def roundTrip (f : Int) : Int := truncDiv (truncDiv (f * 32) 15625 * 15625) 32

/-- `freq_offset_hz` (R249), 0 for FSK (R255). -/
def freqOffsetHz (kind : IfMod) (bw : Bandwidth) (ifFreq : Int) (p : DecodedPacket) : Int :=
  if isLora kind then
    truncDiv (p.freqOffset * lsbMicroHz bw) 1000000 + (ifFreq - roundTrip ifFreq)
  else 0

/-- The coarse correction (R250, R255, R261). -/
def coarseCorrection (c : Config) (kind : IfMod) (bw : Bandwidth) (p : DecodedPacket) : Int :=
  if isLora kind then
    if loraOk kind p then
      if c.ftimeEn then
        precisionCorrection c bw p.datarate.toNat p.codingRate p.crcEn p.payloadLen
      else legacyCorrection c bw p.datarate.toNat p.codingRate p.crcEn p.payloadLen
    else 0
  else c.fskCorr p

/-- `count_us` (R251): the expanded timestamp plus the signed correction, modulo `2^32` (R208). -/
def countUs (expanded : Word) (corr : Int) : Word := BitVec.ofInt 32 (expanded.toNat + corr)

/-- Eligibility for a fine timestamp, as far as it is tested before the calculation (R252). -/
def fineEligible (kind : IfMod) (p : DecodedPacket) : Bool :=
  loraOk kind p && decide (1 ≤ p.numMetrics.toNat) && p.timingSet && crcPassed p

/-- The fine timestamp of a packet, or none where it is not eligible or its calculation fails (R252 to
R254). -/
def fineOverlay (c : Config) (s : State) (ch : Fin 10) (freqHz : Nat) (p : DecodedPacket) (livePps : Word) :
    Option Word :=
  let kind := c.ifMod.get ch
  if fineEligible kind p then
    let offHz := freqOffsetHz kind (c.bw.get ch) (c.ifFreqHz ch) p
    (s.fineTime c p.metrics p.numMetrics p.timestamp p.datarate.toNat (c.ifFreq.get ch)
      ((offHz : ℚ) / freqHz) livePps).toOption
  else none

/-- The returned record, field by field (R260). -/
def buildRecord (c : Config) (s : State) (ch : Fin 10) (freqHz : Nat) (p : DecodedPacket) (livePps : Word) :
    NormalizedRxRecord :=
  let kind := c.ifMod.get ch
  let bw := c.bw.get ch
  let fine := fineOverlay c s ch freqHz p livePps
  { freqHz := BitVec.ofNat 32 freqHz
    ifChain := p.channel
    rfChain := c.ifRf.get ch
    modulation := if isLora kind then .lora else .fsk
    ifMod := kind
    modemId := p.modemId
    bandwidth := bw
    sf := if codesLegal kind p then spreadingOf p.datarate.toNat else .undefined
    cr := if codesLegal kind p then codingRateOf p.codingRate.toNat else .undefined
    crcEn := p.crcEn
    crcError := p.crcError
    crcPassed := crcPassed p
    snrAvg := p.snrAvg
    rssiChanAvg := p.rssiChanAvg
    rssiSigAvg := p.rssiSigAvg
    crc16 := p.crc16
    freqOffsetHz := freqOffsetHz kind bw (c.ifFreqHz ch) p
    size := p.payloadLen
    payload := p.payload
    countUs := countUs (s.pktExpand (raw27Of p.timestamp)) (coarseCorrection c kind bw p)
    ftimePresent := fine.isSome
    ftimeNs := fine.getD 0#32 }

/-! ## One packet -/

/-- What PKT_ASM does after a successful pop that left the state `s` (R240): the channel check with its
discard (R242), the frequency (R244, U10), the CRC16 comparison, which keeps the buffer (R245), and the
record. -/
def State.assemblePacket (c : Config) (s : State) (p : DecodedPacket) (livePps : Word) :
    Host.Outcome (State × Except Failure NormalizedRxRecord) Fault Refusal :=
  if h : p.channel.toNat < 10 then
    let ch : Fin 10 := ⟨p.channel.toNat, h⟩
    match c.centreHz ch with
    | none => .refused .configuration
    | some freqHz =>
      if crc16Rejects c (c.ifMod.get ch) p then .next (s, .error .crc16Mismatch)
      else .next (s, .ok (buildRecord c s ch freqHz p livePps))
  else .next (s.clearBuffer, .error .outOfRangeMetadata)

/-- PKT_ASM but for STATUS and the results (R240): the state it leaves and the record or the failure. A
failed pop discards the buffer (R241). -/
def State.assemble (c : Config) (s : State) (livePps : Word) :
    Host.Outcome (State × Except Failure NormalizedRxRecord) Fault Refusal :=
  s.withBuffer <|
    match s.parse c.layout with
    | .error f => .next (s.clearBuffer, .error f)
    | .ok (p, r) => (s.popped r).assemblePacket c p livePps

/-- PKT_ASM under a configuration (R240). -/
def pktAsmWith (c : Config) (livePps : Word) (s : State) : Host.Outcome State Fault Refusal :=
  match s.assemble c livePps with
  | .next (t, r) => t.conclude (r.map .record)
  | .fault f => .fault f
  | .refused r => .refused r

/-! ## One cycle -/

/-- The live PPS value of call `i` in a cycle (R256, R258): the host's listed one, beyond the list a free
draw. -/
def liveValue (cycle : Nat) (lives : List Word) (i : Nat) : Word :=
  (lives[i]?).getD (Config.freeLive cycle i)

/-- The live PPS values of a cycle, one for every packet that remains: a cycle makes no more calls (R257). -/
def State.drawLives (s : State) (lives : List Word) : List Word :=
  (List.range s.packetCount.toNat).map (liveValue s.cycles lives)

/-- RECEIVE's loop (R256): PKT_ASM while `packet_count > 0`, each call with the next live value; the records in
order, failures absorbed (R278). Each call lowers `packet_count` (R257), so values as many as the packets
are enough. -/
def State.receiveLoop (c : Config) : List Word → State → List NormalizedRxRecord →
    Host.Outcome (State × List NormalizedRxRecord) Fault Refusal
  | [], s, out => .next (s, out)
  | live :: lives, s, out =>
    if s.packetCount = 0#8 then .next (s, out)
    else
      match s.assemble c live with
      | .next (t, .ok r) => receiveLoop c lives t (out ++ [r])
      | .next (t, .error _) => receiveLoop c lives t out
      | .fault f => .fault f
      | .refused r => .refused r

/-- A cycle completed: the next one draws its free live values anew (log 14). -/
def State.countCycle (s : State) : State := { s with cycles := s.cycles + 1 }

/-- RECEIVE under a configuration (R256): fetch, whose failure is not propagated, then the one counter sample
of the cycle, then the pops; `STATUS <- 0` always. -/
def receiveWith (c : Config) (len1 len2 : Half) (data : List Byte) (pair : Vector Byte 8) (lives : List Word)
    (s : State) : Host.Outcome State Fault Refusal :=
  if FetchLegal len1 len2 data then
    let s1 := (s.fetch c.layout data).1.sampleCounters c.pairLayout pair
    let us := s1.sampledUs c.pairLayout pair
    match s1.receiveLoop c (s1.drawLives lives) [] with
    | .next (t, out) =>
      .next (t.countCycle.finish (some (.cycle out us.1 us.2)))
    | .fault f => .fault f
    | .refused r => .refused r
  else refusePrecondition .fetchOperands

/-- PKT_ASM (R240). -/
def execPktAsm (livePps : Word) (s : State) : Host.Outcome State Fault Refusal :=
  pktAsmWith Config.board livePps s

/-- RECEIVE (R256). -/
def execReceive (len1 len2 : Half) (data : List Byte) (pair : Vector Byte 8) (lives : List Word)
    (s : State) : Host.Outcome State Fault Refusal :=
  receiveWith Config.board len1 len2 data pair lives s

end Sys2Proof.Machine
end

