-- ==== Sys2Proof/Machine/Ring.lean ====
section
/-! DEFINITION. The PPS history ring: PPS_SAVE (R161). -/

namespace Sys2Proof.Machine

/-- PPS_SAVE (R161). The case in which nothing is stored is no failure. -/
def execPpsSave (raw : Word) (s : State) : Host.Outcome State Fault Refusal :=
  .next ((s.savePps raw).finish none)

end Sys2Proof.Machine
end

