-- ==== Sys2Proof/Machine/Dispatch.lean ====
section
/-! DEFINITION. The dispatch from an operation to its meaning: one arm per constructor. -/

namespace Sys2Proof.Machine

def exec (i : Instr) (s : State) : Host.Outcome State Fault Refusal :=
  match i with
  | .csum8 d => Sys2Proof.Machine.execCsum8 d s
  | .crc16 d => Sys2Proof.Machine.execCrc16 d s
  | .tsUpdate ppsRaw instRaw => Sys2Proof.Machine.execTsUpdate ppsRaw instRaw s
  | .tsExpand dom raw => Sys2Proof.Machine.execTsExpand dom raw s
  | .tsPktexp pktRaw => Sys2Proof.Machine.execTsPktexp pktRaw s
  | .cntSample pair => Sys2Proof.Machine.execCntSample pair s
  | .ppsSave raw => Sys2Proof.Machine.execPpsSave raw s
  | .bufClear => Sys2Proof.Machine.execBufClear s
  | .bufFetch len1 len2 data => Sys2Proof.Machine.execBufFetch len1 len2 data s
  | .bufPop => Sys2Proof.Machine.execBufPop s
  | .toa bw sf cr nPre headerEn crcEn size => Sys2Proof.Machine.execToa bw sf cr nPre headerEn crcEn size s
  | .corrLegacy bw sf cr crcEn size => Sys2Proof.Machine.execCorrLegacy bw sf cr crcEn size s
  | .corrPrec bw sf cr crcEn size => Sys2Proof.Machine.execCorrPrec bw sf cr crcEn size s
  | .notch ifFreqHz => Sys2Proof.Machine.execNotch ifFreqHz s
  | .ftimeCalc metrics m rawTs sf ifFreqHz freqError livePps => Sys2Proof.Machine.execFtimeCalc metrics m rawTs sf ifFreqHz freqError livePps s
  | .pktAsm livePps => Sys2Proof.Machine.execPktAsm livePps s
  | .receive len1 len2 data pair lives => Sys2Proof.Machine.execReceive len1 len2 data pair lives s

end Sys2Proof.Machine
end

