-- ==== Sys2Proof/Machine/Step.lean ====
section
/-! DEFINITION. One step of the machine: it takes the oldest request of the host, decodes it and runs it
(R6, R72). -/

namespace Sys2Proof.Machine

/-- One step. With no request pending the engine is idle and keeps all its state (R289). A request that does
not decode is refused by the precondition it breaks (R114, R280). -/
def step (s : State) : Host.Outcome State Fault Refusal :=
  match s.takeRequest with
  | none => .next s
  | some (r, t) =>
    match decode r with
    | .error e => .refused (.precondition e)
    | .ok i => exec i t

/-- The state with the operation of a word of the opcode table as the next request (log 1, log 2). -/
def State.withFetchWord (s : State) (nbits w : Nat) : State :=
  s.placeRequest (requestOfWord nbits w)

end Sys2Proof.Machine
end

