-- ==== Sys2Proof/Machine/Candidates.lean ====
section
/-! DEFINITION. The candidates the spec gives, from general knowledge, for the open parameters (R133, R210,
R221, G9), and the configuration TC1 of its test vectors. The machine does not run with them: its
configuration is `Config.board`, of which nothing is known. They let a rule be tried out and a statement
about every configuration be witnessed. -/

namespace Sys2Proof.Machine

/-- The candidate step of CRC16_FN, bit by bit (R133): the list holds the next value's bits 0 to 15. -/
def candidateCrcStep (crc : Half) (byte : Byte) : Half :=
  let c := crc.getLsbD
  let b := byte.getLsbD
  BitVec.ofBoolListLE
    [b 0 ^^ c 12 ^^ c 8,
     b 1 ^^ c 13 ^^ c 9,
     b 2 ^^ c 14 ^^ c 10,
     b 3 ^^ c 15 ^^ c 11,
     b 4 ^^ c 12,
     b 5 ^^ c 13 ^^ c 12 ^^ c 8,
     b 6 ^^ c 14 ^^ c 13 ^^ c 9,
     b 7 ^^ c 15 ^^ c 14 ^^ c 10,
     c 0 ^^ c 15 ^^ c 11,
     c 1 ^^ c 12,
     c 2 ^^ c 13,
     c 3 ^^ c 14,
     c 4 ^^ c 15 ^^ c 12 ^^ c 8,
     c 5 ^^ c 13 ^^ c 9,
     c 6 ^^ c 14 ^^ c 10,
     c 7 ^^ c 15 ^^ c 11]

/-- One bit of the serial form of the candidate (R133). -/
def candidateSerialBit (crc : Half) (bit : Bool) : Half :=
  let shifted := (crc <<< 1) ||| BitVec.zeroExtend 16 (BitVec.ofBool bit)
  if crc.getLsbD 15 then shifted ^^^ 0x1021#16 else shifted

/-- The serial form of the candidate step (R133): the byte's bits shifted in, most significant first. -/
def candidateSerialStep (crc : Half) (byte : Byte) : Half :=
  [7, 6, 5, 4, 3, 2, 1, 0].foldl (fun c i => candidateSerialBit c (byte.getLsbD i)) crc

/-- The candidate FILT_US (R210). -/
def candidateFiltUs : Bandwidth → Int
  | .bw125 => -18
  | .bw250 => -10
  | .bw500 => -6

/-- Configuration TC1 of 95_test_vectors.md, which fixes every constant and function. LEGACY_CORR_FN, which
TC1 leaves out because FTIME_EN is 1, is 0 here. -/
def tc1 : Config where
  layout := recordLayout
  pairLayout := counterPairLayout
  ftimeEn := true
  ifMod := #v[.loraMulti, .loraMulti, .loraMulti, .loraMulti, .loraMulti, .loraMulti, .loraMulti,
    .loraMulti, .loraStd, .fsk]
  ifRf := #v[0, 0, 0, 0, 0, 1, 1, 1, 1, 1]
  ifFreq := #v[BitVec.ofInt 32 (-400000), BitVec.ofInt 32 (-200000), 0#32, 200000#32, 400000#32,
    BitVec.ofInt 32 (-400000), BitVec.ofInt 32 (-200000), 0#32, 250000#32, 300000#32]
  rfFreq := [867500000#32, 868500000#32]
  bw := #v[.bw125, .bw125, .bw125, .bw125, .bw125, .bw125, .bw125, .bw125, .bw250, .bw125]
  crcInit := 0#16
  crcStep := candidateCrcStep
  legacyAdvance := fun _ _ _ _ _ => 0
  filtUs := candidateFiltUs
  fskCorr := fun _ => 0
  notchC0 := 102922 / 10000
  notchC1 := -1275 / 100000
  notchC2 := -101 / 10000
  notchC3 := 24 / 10000000
  notchC4 := 17 / 10000000

end Sys2Proof.Machine
end

