-- ==== Sys2Proof/Safety.lean ====
section
/-! DEFINITION. What a good state and a good run of the engine are, in the terms the statements use: the
invariant of R37 with its companions, what of a state an operation can observe, the sampling interval the host
owes (R318), byte strings that are records, and the values that FTIME_CALC's steps name. -/

namespace Sys2Proof.Machine

open Sys2Proof.Params

/-- The ranges of R37, and STATUS at a code some operation writes (R42). The widths of the fields give the
rest of R37. -/
structure State.RangesOk (s : State) : Prop where
  cursor_le_size : s.cursor.toNat ≤ s.size.toNat
  size_le_cap : s.size.toNat ≤ bufCap
  count_le_max : s.packetCount.toNat ≤ packetsMax
  fill_le_cap : s.fill.toNat ≤ ringCap
  status_le_seven : s.status.toNat ≤ 7

/-- The buffer memory has its canonical form, the model's own choice (log 4). -/
def State.BufferCanonical (s : State) : Prop := memWf s.buf = true

/-- A slot that PPS_SAVE has stored since reset: one of the `fill` newest (R36). -/
def State.SlotStored (s : State) (i : BitVec 4) : Prop := (s.widx - i).toNat < s.fill.toNat

/-- R35: an entry stored after another differs from the entry stored just before it, as long as both are in
the ring. -/
def State.RingDistinct (s : State) : Prop :=
  ∀ k : Nat, k + 1 < s.fill.toNat →
    s.slotAt (s.widx - BitVec.ofNat 4 k) ≠ s.slotAt (s.widx - BitVec.ofNat 4 k - 1#4)

/-- `packet_count` is what BUF_FETCH's walk counts from the cursor on: the packets known to remain (R27,
R408). -/
def State.Framed (s : State) : Prop :=
  walk Config.board.layout s.byte s.size.toNat s.size.toNat s.cursor.toNat 0 = some s.packetCount.toNat

/-- The invariant of the engine: R37, R35, R27 with R408, and the model's canonical form of the buffer (log 4). -/
structure State.Inv (s : State) : Prop where
  ranges : s.RangesOk
  canonical : s.BufferCanonical
  distinct : s.RingDistinct
  framed : s.Framed

/-- Two states that no operation can tell apart: they may differ in STATUS, which no operation reads (R42), in
the results handed over last (R43), in the buffer at or above `size` (R24) and in the slots never stored
(R47). -/
structure State.Alike (s t : State) : Prop where
  size : s.size = t.size
  cursor : s.cursor = t.cursor
  packetCount : s.packetCount = t.packetCount
  inst : s.inst = t.inst
  pps : s.pps = t.pps
  widx : s.widx = t.widx
  fill : s.fill = t.fill
  port : s.port = t.port
  cycles : s.cycles = t.cycles
  bytes : ∀ a, a < s.size.toNat → s.byte a = t.byte a
  slots : ∀ i, s.SlotStored i → s.slotAt i = t.slotAt i

/-- Two outcomes the host cannot tell apart, now or later: the same status and results and states that no
operation can tell apart, or the same fault, or the same refusal. -/
def AlikeOutcome : Host.Outcome State Fault Refusal → Host.Outcome State Fault Refusal → Prop
  | .next s, .next t => s.Alike t ∧ s.status = t.status ∧ s.output = t.output
  | .fault f, .fault g => f = g
  | .refused r, .refused q => r = q
  | _, _ => False

/-- A 27-bit microsecond counter and the time it stands for, counted from a moment when it was 0 with no wrap
counted: the domain holds the counter's value at `t` and its wraps modulo 32. -/
def TimestampDomain.Tracks (d : TimestampDomain) (t : Nat) : Prop :=
  d.ref = BitVec.ofNat 27 t ∧ d.wrap = BitVec.ofNat 5 (t / rolloverUs)

/-- The host's obligation of R318: the next counter sample comes less than one rollover period after this
one, and not before it. -/
def SampledInTime (t u : Nat) : Prop := t ≤ u ∧ u < t + rolloverUs

/-! ## Byte strings that are records (R90 to R93, R99) -/

/-- The payload length a byte string carries at offset 2. -/
def recordN (b : List Byte) : Nat := (b.getD 2 0#8).toNat

/-- The metric count a byte string carries at offset `9 + N + 12`. -/
def recordM (b : List Byte) : Nat := (b.getD (9 + recordN b + 12) 0#8).toNat

/-- A byte string that is one record by its framing: the sync word, and exactly the length its two length
fields give (R90 to R92). -/
abbrev FramedRecord (b : List Byte) : Prop :=
  b.getD 0 0#8 = 0xA5#8 ∧ b.getD 1 0#8 = 0xC0#8 ∧ b.length = 9 + recordN b + 14 + 2 * recordM b

/-- The payload of a record. -/
def recordPayload (b : List Byte) : List Byte := (b.drop 9).take (recordN b)

/-- The CRC16 field of a record, little-endian at `T + 10` (R101). -/
def recordCrc16 (b : List Byte) : Half :=
  b.getD (9 + recordN b + 11) 0#8 ++ b.getD (9 + recordN b + 10) 0#8

/-- A record that a cycle under a configuration returns (the conditions of R257): its checksum is right
(R99), its modem id, channel and SF code are legal (R112, and the channel for every modem id), and its CRC16
field matches its payload where the CRC is enabled and the channel is not an FSK one (R245). -/
abbrev GoodRecord (c : Config) (b : List Byte) : Prop :=
  FramedRecord b ∧
  b.getD (b.length - 1) 0#8 = csum8 (b.take (b.length - 1)) ∧
  (b.getD 5 0#8).toNat ≤ 17 ∧ (b.getD 3 0#8).toNat ≤ 9 ∧
  ((b.getD 5 0#8).toNat ≤ 16 → 5 ≤ (b.getD 4 0#8).toNat / 16 ∧ (b.getD 4 0#8).toNat / 16 ≤ 12) ∧
  ∀ ch : Fin 10, (b.getD 3 0#8).toNat = ch.val → c.ifMod.get ch ≠ .fsk → (b.getD 4 0#8).toNat % 2 = 1 →
    crc16 c (recordPayload b) = recordCrc16 b

/-- The returned record carries the fields of a byte string (R260, at the places of R93) and of its channel's
configuration: every field but the frequency, the mapped codes, the frequency offset and the timestamps. -/
abbrev CopiesRecord (c : Config) (b : List Byte) (r : NormalizedRxRecord) : Prop :=
  let tail := 9 + recordN b
  r.ifChain = b.getD 3 0#8 ∧ r.modemId = b.getD 5 0#8 ∧ r.size = b.getD 2 0#8 ∧ r.payload = recordPayload b ∧
  r.crc16 = recordCrc16 b ∧ r.crcEn = (b.getD 4 0#8).getLsbD 0 ∧ r.crcError = (b.getD tail 0#8).getLsbD 0 ∧
  r.crcPassed = (r.crcEn && !r.crcError) ∧ r.snrAvg = b.getD (tail + 1) 0#8 ∧
  r.rssiChanAvg = b.getD (tail + 2) 0#8 ∧ r.rssiSigAvg = b.getD (tail + 3) 0#8 ∧
  ∃ ch : Fin 10, (b.getD 3 0#8).toNat = ch.val ∧ r.rfChain = c.ifRf.get ch ∧ r.ifMod = c.ifMod.get ch ∧
    r.modulation = (if c.ifMod.get ch = .fsk then .fsk else .lora) ∧ r.bandwidth = c.bw.get ch

/-! ## The values FTIME_CALC's steps name, in the terms of R223 -/

/-- `aligned` of step 2 (R225). -/
abbrev Aligned (rawTs : Word) (sf : Nat) (freqError : ℚ) (aligned : Word) : Prop :=
  ∃ off : Nat,
    off = 256 * 2 ^ sf * (8 + 4 + (if sf = 5 ∨ sf = 6 then 2 else 0)) + 256 * (2 ^ sf / 4 - 1) ∧
    (aligned.toNat : ℤ) = (rawTs.toNat - (off + ⌊off * freqError + 1 / 2⌋) + 2138) % 2 ^ 32

/-- `mean` of step 3 (R227). -/
abbrev Mean (metrics : List Byte) (m : Byte) (sf : Nat) (mean : ℚ) : Prop :=
  ∃ k : Nat,
    k = 2 * min m.toNat (if sf = 12 then 4 else if sf = 11 then 8 else if sf = 10 then 16 else 32) ∧
    mean = (∑ i ∈ Finset.range k, ∑ l ∈ Finset.range (i + 1), ((metrics.getD l 0#8).toInt : ℚ)) / k

/-- `ref` and `j` of step 4 (R228, R229): the live value with the newest slot, or, where it is stale, the first
slot within one second. -/
abbrev State.References (s : State) (aligned livePps ref : Word) (j : BitVec 4) : Prop :=
  (aligned - livePps).toNat ≤ 32000000 ∧ ref = livePps ∧ j = s.widx ∨
    32000000 < (aligned - livePps).toNat ∧ ref = s.slotAt j ∧ (aligned - ref).toNat < 32000000 ∧
      ∀ i : BitVec 4, i.toNat < j.toNat → 32000000 ≤ (aligned - s.slotAt i).toNat

/-! ## A cycle as single operations -/

/-- The host's loop of R256 with single PKT_ASM operations: while packets remain, the next one with the next
live value, keeping the records delivered. None where an operation stops or the values run out. -/
def assembleAll : List Word → State → List NormalizedRxRecord → Option (State × List NormalizedRxRecord)
  | [], s, out => if s.packetCount = 0#8 then some (s, out) else none
  | live :: lives, s, out =>
    if s.packetCount = 0#8 then some (s, out)
    else
      match exec (.pktAsm live) s with
      | .next t =>
        match t.output with
        | some (.record r) => assembleAll lives t (out ++ [r])
        | _ => assembleAll lives t out
      | _ => none

/-- The statuses R272 allows each operation to end with. -/
def allowedStatuses : Instr → List (BitVec 8)
  | .csum8 _ => [0#8]
  | .crc16 _ => [0#8]
  | .tsUpdate _ _ => [0#8]
  | .tsExpand _ _ => [0#8]
  | .tsPktexp _ => [0#8]
  | .cntSample _ => [0#8]
  | .ppsSave _ => [0#8]
  | .bufClear => [0#8]
  | .bufFetch _ _ _ => [0#8, 1#8]
  | .bufPop => [0#8, 1#8, 2#8, 3#8]
  | .toa _ _ _ _ _ _ _ => [0#8]
  | .corrLegacy _ _ _ _ _ => [0#8]
  | .corrPrec _ _ _ _ _ => [0#8]
  | .notch _ => [0#8]
  | .ftimeCalc _ _ _ _ _ _ _ => [0#8, 5#8, 6#8, 7#8]
  | .pktAsm _ => [0#8, 1#8, 2#8, 3#8, 4#8]
  | .receive _ _ _ _ _ => [0#8]

end Sys2Proof.Machine
end

