-- ==== Sys2Proof/Certificates/Slice0/Obligations.lean ====
section
/-! DEFINITION. The statements for the provers: what the numbered rules of the spec say an operation or the
engine does. Each says in its docstring which rule it formalises, and names the log entry where a clause is
the model's own. -/

open Sys2Proof Sys2Proof.Machine

/-! ## Encoding and stepping -/

/-- R110: a well-formed operation decodes from its request, with every operand at every value. -/
def Obligations.DecodeOfEncodeGivesTheOperation : Prop :=
  ∀ i : Instr, i.WellFormed → decode (encode i) = .ok i

/-- R110, R280: a request that decodes is the encoding of the operation it decodes to, and that operation
keeps its preconditions. -/
def Obligations.EncodeOfDecodeGivesTheRequest : Prop :=
  ∀ (r : Request) (i : Instr), decode r = .ok i → encode i = r ∧ i.WellFormed

/-- R110, some rows of the table: the code, written bit by bit, with its operands. -/
def Obligations.CommandWordsDecode : Prop :=
  decode ⟨0b00000001#8, [.bytes [0xFF#8]]⟩ = .ok (.csum8 [0xFF#8]) ∧
  decode ⟨0b00010000#8, [.num 7, .num 134217727]⟩ = .ok (.tsUpdate 7#27 134217727#27) ∧
  decode ⟨0b00100000#8, [.num 9]⟩ = .ok (.ppsSave 9#32) ∧
  decode ⟨0b00110010#8, []⟩ = .ok .bufPop ∧
  decode ⟨0b01010000#8, [.int (-75000)]⟩ = .ok (.notch (BitVec.ofInt 32 (-75000))) ∧
  decode ⟨0b01100000#8, [.num 480001000]⟩ = .ok (.pktAsm 480001000#32)

/-- R114, U1: a command code that is not one of the seventeen is refused by name. -/
def Obligations.UnknownCommandCodesAreRefused : Prop :=
  ∀ (s : State) (r : Request) (rest : List Request), s.port = r :: rest →
    (∀ op : Opcode, r.code ≠ op.code) →
    step s = .refused (.precondition (.unknownCommand r.code))

/-- R6, R72, R289 (log 1, 17): a step takes the oldest request and runs the operation it decodes to on the
state without it; with no request the state stays as it is. -/
def Obligations.StepRunsTheDecodedOperation : Prop :=
  (∀ (s : State) (r : Request) (rest : List Request) (i : Instr), s.port = r :: rest → decode r = .ok i →
    step s = exec i { s with port := rest }) ∧
  (∀ s : State, s.port = [] → step s = .next s)

/-- R280: an operation whose own operands break a precondition is refused by its name, whatever the state. The
preconditions are those of BUF_FETCH and RECEIVE (U3: R171, R172), of TOA, CORR_LEGACY and CORR_PREC (U4: R204),
of FTIME_CALC (U5: R223), and that CRC16 takes at most 255 bytes (R132), whose refusal is the model's
inference (log 19). -/
def Obligations.BrokenPreconditionsAreRefused : Prop :=
  ∀ (i : Instr) (e : Reject) (s : State), i.check = some e → exec i s = .refused (.precondition e)

/-! ## Reset and invariants -/

/-- R47, R311: the registers after reset. -/
def Obligations.ResetClearsEveryRegister : Prop :=
  let s := State.reset
  s.size = 0#13 ∧ s.cursor = 0#13 ∧ s.packetCount = 0#8 ∧ s.inst.ref = 0#27 ∧ s.inst.wrap = 0#5 ∧
    s.pps.ref = 0#27 ∧ s.pps.wrap = 0#5 ∧ s.widx = 0#4 ∧ s.fill = 0#5 ∧ s.status = 0#8

/-- R47, R37, R35, R27, R408: the state after reset satisfies the invariant: its ranges, neighbouring ring entries
distinct, `packet_count` exact, and the buffer memory in its canonical form. That form is the model's own choice
(log 4): R47 leaves the contents of BUF unspecified. -/
def Obligations.ResetSatisfiesTheInvariant : Prop := State.reset.Inv

/-- R37: the ranges hold after every step that starts within them. -/
def Obligations.StepKeepsTheRanges : Prop :=
  ∀ s t : State, s.RangesOk → step s = .next t → t.RangesOk

/-- Every step keeps the canonical form of the buffer memory, so that equal buffers are equal data. That form is
the model's own choice (log 4): its addresses are those of R24 and R60, 0 to 4095; that they rise, and that no
entry equals what an unlisted address reads as, is no rule of the spec. -/
def Obligations.StepKeepsTheBufferCanonical : Prop :=
  ∀ s t : State, s.BufferCanonical → step s = .next t → t.BufferCanonical

/-- R35: an entry of the ring differs from the entry stored just before it, after every step. -/
def Obligations.StepKeepsNeighbouringEntriesDistinct : Prop :=
  ∀ s t : State, s.RangesOk → s.RingDistinct → step s = .next t → t.RingDistinct

/-- R27, R408: after every step, `packet_count` is the number of complete records from the cursor on. -/
def Obligations.StepKeepsPacketCountExact : Prop :=
  ∀ s t : State, s.RangesOk → s.BufferCanonical → s.Framed → step s = .next t → t.Framed

/-- R34: the fill count never decreases. -/
def Obligations.FillCountNeverDecreases : Prop :=
  ∀ s t : State, step s = .next t → s.fill.toNat ≤ t.fill.toNat

/-- R20, R24 to R34, R408, R410: each register is written only by the operations its rule names; and the
model's own `port` and `cycles` (log 1, 14) by no operation and by RECEIVE. -/
def Obligations.RegistersAreWrittenOnlyByTheirOperations : Prop :=
  ∀ (i : Instr) (s t : State), exec i s = .next t →
    (i.opcode ∉ [Opcode.bufFetch, .receive] → t.buf = s.buf) ∧
    (i.opcode ∉ [Opcode.bufClear, .bufFetch, .pktAsm, .receive] → t.size = s.size) ∧
    (i.opcode ∉ [Opcode.bufClear, .bufFetch, .bufPop, .pktAsm, .receive] →
      t.cursor = s.cursor ∧ t.packetCount = s.packetCount) ∧
    (i.opcode ∉ [Opcode.tsUpdate, .cntSample, .receive] → t.inst = s.inst ∧ t.pps = s.pps) ∧
    (i.opcode ∉ [Opcode.ppsSave, .cntSample, .receive] →
      t.slot = s.slot ∧ t.widx = s.widx ∧ t.fill = s.fill) ∧
    (i.opcode ≠ .receive → t.cycles = s.cycles) ∧
    t.port = s.port

/-! ## Codec -/

/-- R130: the byte sum modulo 256; nothing but STATUS and the result changes. -/
def Obligations.Csum8ReturnsTheByteSum : Prop :=
  opcodeOf 0x01#8 = some .csum8 ∧
  ∀ (d : List Byte) (s : State), ∃ v : Byte,
    v.toNat = (d.map BitVec.toNat).sum % 256 ∧
    exec (.csum8 d) s = .next { s with status := 0#8, output := some (.sum v) }

/-- R132, R134: the fold of the configuration's step over at most 255 bytes; a longer operand is refused (log
19). -/
def Obligations.Crc16FoldsTheBytes : Prop :=
  ∀ (d : List Byte) (s : State),
    (d.length ≤ 255 → exec (.crc16 d) s = .next { s with
      status := 0#8
      output := some (.crc (d.foldl Config.board.crcStep Config.board.crcInit)) }) ∧
    (255 < d.length → exec (.crc16 d) s = .refused (.precondition (.outsideType .crc16)))

/-- R133: the bit equations of the candidate step and its serial form agree. -/
def Obligations.CandidateCrcFormsAgree : Prop :=
  ∀ (c : Half) (b : Byte), candidateCrcStep c b = candidateSerialStep c b

/-! ## Counters -/

/-- R141: each domain's wrap counter goes up by one, modulo 32, iff the new raw value is below the reference;
the reference becomes the raw value. A value at or above `2^27` is refused. -/
def Obligations.TsUpdateCountsTheWraps : Prop :=
  opcodeOf 0x10#8 = some .tsUpdate ∧
  (∀ p i : Nat, 2 ^ 27 ≤ p ∨ 2 ^ 27 ≤ i → decode ⟨0x10#8, [.num p, .num i]⟩ = .error .counterRange) ∧
  ∀ (ppsRaw instRaw : Raw27) (s : State), exec (.tsUpdate ppsRaw instRaw) s = .next { s with
    pps := ⟨ppsRaw, if ppsRaw.toNat < s.pps.ref.toNat
      then BitVec.ofNat 5 ((s.pps.wrap.toNat + 1) % 32) else s.pps.wrap⟩
    inst := ⟨instRaw, if instRaw.toNat < s.inst.ref.toNat
      then BitVec.ofNat 5 ((s.inst.wrap.toNat + 1) % 32) else s.inst.wrap⟩
    status := 0#8
    output := none }

/-- R312: the first TS_UPDATE after reset counts no wrap, and expanded values start below `2^27`. -/
def Obligations.FirstUpdateCountsNoWrap : Prop :=
  ∀ (ppsRaw instRaw : Raw27), ∃ t, exec (.tsUpdate ppsRaw instRaw) State.reset = .next t ∧
    t.pps = ⟨ppsRaw, 0#5⟩ ∧ t.inst = ⟨instRaw, 0#5⟩ ∧
    ∀ (dom : DomainName) (raw : Raw27), ∃ v : Word, v.toNat < 2 ^ 27 ∧
      exec (.tsExpand dom raw) t = .next { t with output := some (.expanded v) }

/-- R143: `wrap · 2^27 + raw`; a value at or above `2^27` is refused. -/
def Obligations.TsExpandJoinsWrapAndRaw : Prop :=
  opcodeOf 0x11#8 = some .tsExpand ∧
  (∀ (dom : DomainName) (n : Nat), 2 ^ 27 ≤ n → decode ⟨0x11#8, [.dom dom, .num n]⟩ = .error .counterRange) ∧
  ∀ (dom : DomainName) (raw : Raw27) (s : State), ∃ v : Word,
    v.toNat = (match dom with | .inst => s.inst.wrap.toNat | .pps => s.pps.wrap.toNat) * 2 ^ 27 + raw.toNat ∧
    exec (.tsExpand dom raw) s = .next { s with status := 0#8, output := some (.expanded v) }

/-- R145: the current wrap where the reference is at or above the packet's value, else the one before it; a
value at or above `2^27` is refused. -/
def Obligations.TsPktexpPicksTheWrap : Prop :=
  opcodeOf 0x12#8 = some .tsPktexp ∧
  (∀ n : Nat, 2 ^ 27 ≤ n → decode ⟨0x12#8, [.num n]⟩ = .error .counterRange) ∧
  ∀ (pktRaw : Raw27) (s : State), ∃ v : Word,
    v.toNat = (if pktRaw.toNat ≤ s.inst.ref.toNat then s.inst.wrap.toNat
      else (s.inst.wrap.toNat + 31) % 32) * 2 ^ 27 + pktRaw.toNat ∧
    exec (.tsPktexp pktRaw) s = .next { s with status := 0#8, output := some (.expanded v) }

/-- R147, R105, R108: CNT_SAMPLE is PPS_SAVE of the big-endian PPS counter, TS_UPDATE of both counters
divided by 32, and two TS_EXPANDs. -/
def Obligations.CntSampleIsItsSteps : Prop :=
  opcodeOf 0x13#8 = some .cntSample ∧
  ∀ (pair : Vector Byte 8) (s : State), ∃ (pps inst : Word) (rawP rawI : Raw27) (a b c d : State)
      (x y : Word),
    pps.toNat = pair[0].toNat * 2 ^ 24 + pair[1].toNat * 2 ^ 16 + pair[2].toNat * 2 ^ 8 + pair[3].toNat ∧
    inst.toNat = pair[4].toNat * 2 ^ 24 + pair[5].toNat * 2 ^ 16 + pair[6].toNat * 2 ^ 8 + pair[7].toNat ∧
    rawP.toNat = pps.toNat / 32 ∧ rawI.toNat = inst.toNat / 32 ∧
    exec (.ppsSave pps) s = .next a ∧ exec (.tsUpdate rawP rawI) a = .next b ∧
    exec (.tsExpand .inst rawI) b = .next c ∧ c.output = some (.expanded x) ∧
    exec (.tsExpand .pps rawP) c = .next d ∧ d.output = some (.expanded y) ∧
    exec (.cntSample pair) s = .next { d with output := some (.sample x y) }

/-- R140, R144: a domain that tracks a counter and is sampled again within one rollover period tracks it
still, and the expanded value is the counter's time modulo `2^32`. -/
def Obligations.TimelySamplesTrackTheCounter : Prop :=
  ∀ (dom : DomainName) (ppsRaw instRaw : Raw27) (s : State) (t u : Nat),
    (s.domain dom).Tracks t → SampledInTime t u →
    (match dom with | .inst => instRaw | .pps => ppsRaw) = BitVec.ofNat 27 u →
    ∃ a, exec (.tsUpdate ppsRaw instRaw) s = .next a ∧ (a.domain dom).Tracks u ∧
      exec (.tsExpand dom (BitVec.ofNat 27 u)) a =
        .next { a with output := some (.expanded (BitVec.ofNat 32 u)) }

/-- R146: a packet captured at or before the last counter sample and less than one rollover period before it
gets its true time modulo `2^32`. -/
def Obligations.PacketTimeIsRecovered : Prop :=
  ∀ (s : State) (sampled captured : Nat), s.inst.Tracks sampled → SampledInTime captured sampled →
    exec (.tsPktexp (BitVec.ofNat 27 captured)) s =
      .next { s with status := 0#8, output := some (.expanded (BitVec.ofNat 32 captured)) }

/-! ## The ring -/

/-- R161: a snapshot is stored, after the index advanced, iff the ring is empty or the newest entry differs. -/
def Obligations.PpsSaveStoresANewSnapshot : Prop :=
  opcodeOf 0x20#8 = some .ppsSave ∧
  ∀ (raw : Word) (s : State),
    (s.fill = 0#5 ∨ raw ≠ s.slot.get s.widx.toFin → ∃ t, exec (.ppsSave raw) s = .next t ∧
      t = { s with
        widx := BitVec.ofNat 4 ((s.widx.toNat + 1) % 16)
        slot := t.slot
        fill := if s.fill.toNat < 16 then BitVec.ofNat 5 (s.fill.toNat + 1) else s.fill
        status := 0#8
        output := none } ∧
      ∀ j : Fin 16, t.slot.get j = if j.val = (s.widx.toNat + 1) % 16 then raw else s.slot.get j) ∧
    (s.fill ≠ 0#5 ∧ raw = s.slot.get s.widx.toFin →
      exec (.ppsSave raw) s = .next { s with status := 0#8, output := none })

/-- R163: saving one value any number of times after reset stores it once, in slot 1. -/
def Obligations.RepeatedSavesCountOnce : Prop :=
  ∀ (n : Nat) (raw : Word), 1 ≤ n → ∃ t : State,
    Host.Core.run Sys2Proof.core n
      { State.reset with port := List.replicate n (encode (.ppsSave raw)) } = .next t ∧
    t.fill = 1#5 ∧ t.widx = 1#4 ∧ t.slotAt 1#4 = raw ∧ t.port = []

/-- R36: sixteen snapshots, each different from the one before, fill the slots 1 to 15 and then 0. -/
def Obligations.SixteenSavesFillTheRing : Prop :=
  ∀ v : Vector Word 16, (∀ k, (h : k < 15) → v[k] ≠ v[k + 1]) → ∃ t : State,
    Host.Core.run Sys2Proof.core 16
      { State.reset with port := v.toList.map fun raw => encode (.ppsSave raw) } = .next t ∧
    t.fill = 16#5 ∧ t.widx = 0#4 ∧
    ∀ k, (h : k < 16) → t.slotAt (BitVec.ofNat 4 (k + 1)) = v[k]

/-! ## The buffer -/

/-- R170: the buffer group becomes 0 and STATUS too; nothing else changes. -/
def Obligations.BufClearEmptiesTheBuffer : Prop :=
  opcodeOf 0x30#8 = some .bufClear ∧
  ∀ s : State, exec .bufClear s = .next { s with
    size := 0#13, cursor := 0#13, packetCount := 0#8, status := 0#8, output := none }

/-- R172, R173: fewer than 23 bytes are discarded silently; 23 or more without a sync word fail. In both
cases the buffer is empty and nothing else changes. -/
def Obligations.BufFetchDiscardsShortOrUnsyncedData : Prop :=
  ∀ (len1 len2 : Half) (data : List Byte) (s : State), FetchLegal len1 len2 data →
    (data.length < 23 → exec (.bufFetch len1 len2 data) s = .next { s with
      size := 0#13, cursor := 0#13, packetCount := 0#8, status := 0#8, output := some (.count 0#8) }) ∧
    (23 ≤ data.length → (∀ k, ¬ (data[k]? = some 0xA5#8 ∧ data[k + 1]? = some 0xC0#8)) →
      exec (.bufFetch len1 len2 data) s = .next { s with
        size := 0#13, cursor := 0#13, packetCount := 0#8, status := 1#8, output := none })

/-- R173: garbage in which no sync pair begins is skipped: the fetch ends as if it had not been there. -/
def Obligations.BufFetchSkipsLeadingGarbage : Prop :=
  ∀ (len1 len2 len1' len2' : Half) (garbage data : List Byte) (s : State),
    FetchLegal len1 len2 (garbage ++ data) → FetchLegal len1' len2' data → 23 ≤ data.length →
    data[0]? = some 0xA5#8 → data[1]? = some 0xC0#8 →
    (∀ k, k < garbage.length →
      ¬ ((garbage ++ data)[k]? = some 0xA5#8 ∧ (garbage ++ data)[k + 1]? = some 0xC0#8)) →
    exec (.bufFetch len1 len2 (garbage ++ data)) s = exec (.bufFetch len1' len2' data) s

/-- R171, R173, R276: on legal operands BUF_FETCH always ends, with the cursor at 0 and either the new count as
its result or an empty buffer and MalformedBuffer. From 23 bytes on it stores from address 0 on the bytes from
the first sync word on, `size` is their number where it does not fail, and every other byte, the domains and the
ring keep their values. -/
def Obligations.BufFetchEndsWithCountOrFailure : Prop :=
  ∀ (len1 len2 : Half) (data : List Byte) (s : State), FetchLegal len1 len2 data →
    ∃ t, exec (.bufFetch len1 len2 data) s = .next t ∧ t.cursor = 0#13 ∧
      (t.status = 0#8 ∧ t.output = some (.count t.packetCount) ∨
        t.status = 1#8 ∧ t.output = none ∧ t.size = 0#13 ∧ t.packetCount = 0#8) ∧
      (∀ k, s.BufferCanonical → 23 ≤ data.length → findSync data = some k →
        (∀ a, a < data.length - k → data[k + a]? = some (t.byte a)) ∧
        (t.status = 0#8 → t.size.toNat = data.length - k)) ∧
      (∀ a, (∀ k, 23 ≤ data.length → findSync data = some k → data.length - k ≤ a) → t.byte a = s.byte a) ∧
      t.inst = s.inst ∧ t.pps = s.pps ∧ t.slot = s.slot ∧ t.widx = s.widx ∧ t.fill = s.fill

/-- R184 (a), R173 to R176: back-to-back records are counted, each once, an incomplete one after them is kept
below `size` and not counted, and garbage before them in which no sync pair begins is skipped; this also where
what follows the garbage is shorter than 23 bytes. -/
def Obligations.BufFetchCountsCompleteRecords : Prop :=
  ∀ (len1 len2 : Half) (garbage : List Byte) (rs : List (List Byte)) (rest body : List Byte) (s : State),
    body = rs.flatten ++ rest → FetchLegal len1 len2 (garbage ++ body) → s.BufferCanonical →
    (∀ b ∈ rs, FramedRecord b) →
    (rest = [] ∨ ∃ b, FramedRecord b ∧ rest <+: b ∧ 2 ≤ rest.length ∧ rest.length < b.length) →
    (∀ k, k < garbage.length →
      ¬ ((garbage ++ body)[k]? = some 0xA5#8 ∧ (garbage ++ body)[k + 1]? = some 0xC0#8)) →
    (garbage ++ body = [] ∨ 23 ≤ (garbage ++ body).length ∧ body ≠ []) →
    ∃ t, exec (.bufFetch len1 len2 (garbage ++ body)) s = .next t ∧
      t.size.toNat = body.length ∧ t.cursor = 0#13 ∧ t.packetCount.toNat = rs.length ∧
      t.status = 0#8 ∧ t.output = some (.count t.packetCount) ∧
      ∀ k, k < body.length → body[k]? = some (t.byte k)

/-- R174: where no sync word stands at the end of a complete record, the whole buffer is discarded, the
records before it included. -/
def Obligations.BufFetchDiscardsABrokenBoundary : Prop :=
  ∀ (len1 len2 : Half) (rs : List (List Byte)) (rest : List Byte) (s : State),
    FetchLegal len1 len2 (rs.flatten ++ rest) → s.BufferCanonical →
    rs ≠ [] → (∀ b ∈ rs, FramedRecord b) → rest ≠ [] →
    ¬ (rest[0]? = some 0xA5#8 ∧ rest[1]? = some 0xC0#8) →
    ∃ t, exec (.bufFetch len1 len2 (rs.flatten ++ rest)) s = .next t ∧
      t.size = 0#13 ∧ t.cursor = 0#13 ∧ t.packetCount = 0#8 ∧ t.status = 1#8 ∧ t.output = none ∧
      t.inst = s.inst ∧ t.pps = s.pps ∧ t.slot = s.slot ∧ t.widx = s.widx ∧ t.fill = s.fill

/-- R177, R180: a complete record with the right sum and legal metadata is popped: the cursor moves by its
length, the count goes down unless it is 0, and the packet is the result; nothing else changes. -/
def Obligations.BufPopReturnsAValidRecord : Prop :=
  ∀ (s : State) (c n m : Nat), s.size.toNat ≤ 4096 → c = s.cursor.toNat →
    s.byte c = 0xA5#8 → s.byte (c + 1) = 0xC0#8 →
    n = (s.byte (c + 2)).toNat → m = (s.byte (c + 9 + n + 12)).toNat →
    c + (9 + n + 14 + 2 * m) ≤ s.size.toNat →
    ((bytesAt s.byte c (9 + n + 14 + 2 * m - 1)).map BitVec.toNat).sum % 256 =
      (s.byte (c + (9 + n + 14 + 2 * m) - 1)).toNat →
    (s.byte (c + 5)).toNat ≤ 17 →
    ((s.byte (c + 5)).toNat ≤ 16 → (s.byte (c + 3)).toNat ≤ 9 ∧
      5 ≤ (s.byte (c + 4)).toNat / 16 ∧ (s.byte (c + 4)).toNat / 16 ≤ 12) →
    ∃ t, exec .bufPop s = .next t ∧ t.cursor.toNat = c + (9 + n + 14 + 2 * m) ∧
      t.packetCount.toNat = s.packetCount.toNat - 1 ∧
      t = { s with
        cursor := t.cursor
        packetCount := t.packetCount
        status := 0#8
        output := some (.packet (extract recordLayout s.byte c n m)) }

/-- R183, R93, R95, R98, R100, R101: every field of the packet, at its offset and its bits. -/
def Obligations.ExtractReadsEveryField : Prop :=
  ∀ (rd : Nat → Byte) (c n m : Nat), extract recordLayout rd c n m =
    { payloadLen := BitVec.ofNat 8 n
      channel := rd (c + 3)
      crcEn := (rd (c + 4)).getLsbD 0
      codingRate := (rd (c + 4)).extractLsb' 1 3
      datarate := (rd (c + 4)).extractLsb' 4 4
      modemId := rd (c + 5)
      freqOffset := ((rd (c + 8)).extractLsb' 0 4 ++ rd (c + 7) ++ rd (c + 6)).toInt
      crcError := (rd (c + 9 + n)).getLsbD 0
      syncError := (rd (c + 9 + n)).getLsbD 2
      headerError := (rd (c + 9 + n)).getLsbD 3
      timingSet := (rd (c + 9 + n)).getLsbD 4
      snrAvg := rd (c + 9 + n + 1)
      rssiChanAvg := rd (c + 9 + n + 2)
      rssiSigAvg := rd (c + 9 + n + 3)
      rssiChanNegDelta := (rd (c + 9 + n + 4)).extractLsb' 0 4
      rssiChanPosDelta := (rd (c + 9 + n + 4)).extractLsb' 4 4
      rssiSigNegDelta := (rd (c + 9 + n + 5)).extractLsb' 0 4
      rssiSigPosDelta := (rd (c + 9 + n + 5)).extractLsb' 4 4
      timestamp := rd (c + 9 + n + 9) ++ rd (c + 9 + n + 8) ++ rd (c + 9 + n + 7) ++ rd (c + 9 + n + 6)
      crc16 := rd (c + 9 + n + 11) ++ rd (c + 9 + n + 10)
      numMetrics := BitVec.ofNat 8 m
      metrics := (List.range (2 * m)).map fun j => rd (c + 9 + n + 13 + j)
      payload := (List.range n).map fun k => rd (c + 9 + k) }

/-- R178, R179, R181, R182, R275: the three failures of BUF_POP in their order, each changing nothing but
STATUS. -/
def Obligations.BufPopFailuresChangeOnlyStatus : Prop :=
  ∀ (s : State) (c n m r : Nat), s.size.toNat ≤ 4096 → c = s.cursor.toNat →
    n = (s.byte (c + 2)).toNat → m = (s.byte (c + 9 + n + 12)).toNat → r = 9 + n + 14 + 2 * m →
    (¬ (s.byte c = 0xA5#8 ∧ s.byte (c + 1) = 0xC0#8 ∧ c + r ≤ s.size.toNat) →
      exec .bufPop s = .next { s with status := 1#8, output := none }) ∧
    (s.byte c = 0xA5#8 ∧ s.byte (c + 1) = 0xC0#8 ∧ c + r ≤ s.size.toNat →
      ((bytesAt s.byte c (r - 1)).map BitVec.toNat).sum % 256 ≠ (s.byte (c + r - 1)).toNat →
      exec .bufPop s = .next { s with status := 2#8, output := none }) ∧
    (s.byte c = 0xA5#8 ∧ s.byte (c + 1) = 0xC0#8 ∧ c + r ≤ s.size.toNat →
      ((bytesAt s.byte c (r - 1)).map BitVec.toNat).sum % 256 = (s.byte (c + r - 1)).toNat →
      (17 < (s.byte (c + 5)).toNat ∨ (s.byte (c + 5)).toNat ≤ 16 ∧
        (9 < (s.byte (c + 3)).toNat ∨ (s.byte (c + 4)).toNat / 16 < 5 ∨ 12 < (s.byte (c + 4)).toNat / 16)) →
      exec .bufPop s = .next { s with status := 3#8, output := none })

/-- R131, R184 (c): a valid record with exactly one payload byte changed fails with ChecksumMismatch. -/
def Obligations.OneChangedPayloadByteIsCaught : Prop :=
  ∀ (s t : State) (n m a : Nat), t.size.toNat ≤ 4096 → s.size = t.size → s.cursor = t.cursor →
    frameAt recordLayout s.byte s.size.toNat s.cursor.toNat = .complete n m →
    checksumOk recordLayout s.byte s.cursor.toNat n m = true →
    s.cursor.toNat + 9 ≤ a → a < s.cursor.toNat + 9 + n → t.byte a ≠ s.byte a →
    (∀ b, b ≠ a → t.byte b = s.byte b) →
    exec .bufPop t = .next { t with status := 2#8, output := none }

/-- R321: in a state the engine can be in, a BUF_POP at `packet_count = 0` finds no complete record and fails
with MalformedBuffer. -/
def Obligations.PopAtCountZeroFails : Prop :=
  ∀ s : State, s.Inv → s.packetCount = 0#8 →
    exec .bufPop s = .next { s with status := 1#8, output := none }

/-! ## Timing correction -/

/-- R200 to R202, R204: the four results of TOA, with the ceiling of the exact quotient; an `sf` outside 5..12
is refused. -/
def Obligations.ToaFollowsItsFormula : Prop :=
  opcodeOf 0x40#8 = some .toa ∧
  ∀ (bw : Bandwidth) (sf : Nat) (cr : BitVec 3) (nPre : Nat) (headerEn crcEn : Bool) (size : Byte) (s : State),
    (5 ≤ sf ∧ sf ≤ 12 → ∃ r : ToaResult,
      exec (.toa bw sf cr nPre headerEn crcEn size) s =
        .next { s with status := 0#8, output := some (.airtime r) } ∧
      r.tSym * (match bw with | .bw125 => 1 | .bw250 => 2 | .bw500 => 4) = 2 ^ sf * 8 ∧
      (r.nPay : ℤ) = ⌈((max 0 ((8 * size.toNat : ℤ) + (if crcEn then 16 else 0) - 4 * sf
          + (if 7 ≤ sf then 8 else 0) + 20 * (if headerEn then 1 else 0)) : ℤ) : ℚ)
        / (4 * ((sf : ℚ) - 2 * (if 11 ≤ sf then 1 else 0)))⌉ * (cr.toNat + 4) ∧
      r.nTotal = nPre + (if 7 ≤ sf then 17 / 4 else 25 / 4) + 8 + r.nPay ∧
      r.duration = r.nTotal * r.tSym) ∧
    (¬ (5 ≤ sf ∧ sf ≤ 12) → exec (.toa bw sf cr nPre headerEn crcEn size) s =
      .refused (.precondition .correctionOperands))

/-- R201, R203: the symbol duration is a multiple of 64 in 64..32768; the total has a fraction of exactly 1/4;
the duration is a natural number, below `2^32` for a preamble of at most 65535 symbols. -/
def Obligations.DurationIsAWholeNumberOfMicroseconds : Prop :=
  ∀ (bw : Bandwidth) (sf : Nat) (cr : BitVec 3) (nPre : Nat) (headerEn crcEn : Bool) (size : Byte)
    (s t : State) (r : ToaResult), exec (.toa bw sf cr nPre headerEn crcEn size) s = .next t →
    t.output = some (.airtime r) →
    64 ∣ r.tSym ∧ 64 ≤ r.tSym ∧ r.tSym ≤ 32768 ∧ (∃ q : ℕ, r.nTotal = q + 1 / 4) ∧
      ∃ k : ℕ, r.duration = k ∧ (nPre ≤ 65535 → k < 2 ^ 32)

/-- R206, R207: CORR_LEGACY is total on its operand domain, depends on its five operands only, and its result
is an integer above `−2^31` and at most 0; outside the domain it is refused (R204, U4). That the configuration
holds a magnitude below `2^31` for every operand is the model's reading of R207 (log 8). -/
def Obligations.CorrLegacyIsAnAdvance : Prop :=
  ∀ (bw : Bandwidth) (sf : Nat) (cr : BitVec 3) (crcEn : Bool) (size : Byte),
    (5 ≤ sf ∧ sf ≤ 12 → ∃ z : Int, -2 ^ 31 < z ∧ z ≤ 0 ∧ ∀ s : State,
      exec (.corrLegacy bw sf cr crcEn size) s =
        .next { s with status := 0#8, output := some (.correction z) }) ∧
    (¬ (5 ≤ sf ∧ sf ≤ 12) → ∀ s : State, exec (.corrLegacy bw sf cr crcEn size) s =
      .refused (.precondition .correctionOperands))

/-- R209: TOA's payload symbols with an explicit header and no preamble, times its symbol duration, plus
FILT_US. -/
def Obligations.CorrPrecIsPayloadAirtimePlusFilter : Prop :=
  opcodeOf 0x42#8 = some .corrPrec ∧
  ∀ (bw : Bandwidth) (sf : Nat) (cr : BitVec 3) (crcEn : Bool) (size : Byte) (s : State),
    5 ≤ sf ∧ sf ≤ 12 → ∃ (t : State) (r : ToaResult),
      exec (.toa bw sf cr 0 true crcEn size) s = .next t ∧ t.output = some (.airtime r) ∧
      exec (.corrPrec bw sf cr crcEn size) s =
        .next { s with
          status := 0#8
          output := some (.correction (r.nPay * r.tSym + Config.board.filtUs bw)) }

/-! ## The fine timestamp -/

/-- R220: the quartic of the frequency in kHz between −75 kHz and +75 kHz, both included, and 0 outside. -/
def Obligations.NotchIsAQuarticInsideItsBand : Prop :=
  opcodeOf 0x50#8 = some .notch ∧
  ∀ (f : Word) (s : State), ∃ d : ℚ,
    exec (.notch f) s = .next { s with status := 0#8, output := some (.delay d) } ∧
    ((f.toInt < -75000 ∨ 75000 < f.toInt) → d = 0) ∧
    (-75000 ≤ f.toInt ∧ f.toInt ≤ 75000 →
      d = Config.board.notchC4 * ((f.toInt : ℚ) / 1000) ^ 4 + Config.board.notchC3 * ((f.toInt : ℚ) / 1000) ^ 3
        + Config.board.notchC2 * ((f.toInt : ℚ) / 1000) ^ 2 + Config.board.notchC1 * ((f.toInt : ℚ) / 1000)
        + Config.board.notchC0)

/-- R224: with fewer than 16 entries FTIME_CALC fails with InsufficientHistory and nothing but STATUS
changes. -/
def Obligations.FtimeCalcNeedsAFullRing : Prop :=
  ∀ (metrics : List Byte) (m : Byte) (rawTs : Word) (sf : Nat) (ifFreqHz : Word) (freqError : ℚ)
    (livePps : Word) (s : State), FineLegal metrics m sf → s.fill.toNat < 16 →
    exec (.ftimeCalc metrics m rawTs sf ifFreqHz freqError livePps) s =
      .next { s with status := 5#8, output := none }

/-- R230: the crystal check passes exactly for intervals from 26,666,667 to 40,000,000 ticks, with the factor
`32e6 / interval`. -/
def Obligations.CrystalCheckInTicks : Prop :=
  ∀ n : Nat,
    (26666667 ≤ n ∧ n ≤ 40000000 → crystalFactor n = .ok (32000000 / (n : ℚ))) ∧
    (¬ (26666667 ≤ n ∧ n ≤ 40000000) → crystalFactor n = .error .crystalErrorOutOfRange)

/-- R223, R225, R227 to R232: with a full ring, a reference, a passing crystal check and `t` in range, the
result is the floor of `t`; nothing but STATUS and the result changes. -/
def Obligations.FtimeCalcReturnsTheFloor : Prop :=
  ∀ (metrics : List Byte) (m : Byte) (rawTs : Word) (sf : Nat) (ifFreqHz : Word) (freqError : ℚ)
    (livePps : Word) (s : State) (aligned ref : Word) (mean t : ℚ) (j : BitVec 4),
    1 ≤ m.toNat → metrics.length = 2 * m.toNat → 5 ≤ sf → sf ≤ 12 → 16 ≤ s.fill.toNat →
    Aligned rawTs sf freqError aligned → Mean metrics m sf mean → s.References aligned livePps ref j →
    26666667 ≤ (s.slotAt j - s.slotAt (j - 1#4)).toNat → (s.slotAt j - s.slotAt (j - 1#4)).toNat ≤ 40000000 →
    t = ((aligned - ref).toNat + mean + notchDelay Config.board ifFreqHz) * (125 / 4)
      * (32000000 / ((s.slotAt j - s.slotAt (j - 1#4)).toNat : ℚ)) →
    0 ≤ t → t < 1000000000 →
    ∃ v : Word, (v.toNat : ℤ) = ⌊t⌋ ∧
      exec (.ftimeCalc metrics m rawTs sf ifFreqHz freqError livePps) s =
        .next { s with status := 0#8, output := some (.fine v) }

/-- R224, R228 to R233, R236, R275, R276: on legal operands FTIME_CALC ends with a result below `10^9` or with one
of its three failures, and in every case nothing else changes. The failures in their order: InsufficientHistory
unless the ring is full, and where the live value is stale and no slot holds an edge within a second;
CrystalErrorOutOfRange where there is a reference and its interval is outside 26,666,667..40,000,000 ticks;
FineTimestampOverflow where the interval passes and `t` is negative or at least `10^9`. -/
def Obligations.FtimeCalcEndsInRangeOrFails : Prop :=
  ∀ (metrics : List Byte) (m : Byte) (rawTs : Word) (sf : Nat) (ifFreqHz : Word) (freqError : ℚ)
    (livePps : Word) (s : State), FineLegal metrics m sf →
    let endsWith (code : BitVec 8) (r : Option Result) : Prop :=
      exec (.ftimeCalc metrics m rawTs sf ifFreqHz freqError livePps) s =
        .next { s with status := code, output := r }
    ((∃ v : Word, v.toNat < 1000000000 ∧ 16 ≤ s.fill.toNat ∧ endsWith 0#8 (some (.fine v))) ∨
      ∃ code : BitVec 8, code ∈ [5#8, 6#8, 7#8] ∧ endsWith code none) ∧
    (s.fill.toNat < 16 → endsWith 5#8 none) ∧
    ∀ (aligned : Word) (mean : ℚ), 16 ≤ s.fill.toNat → Aligned rawTs sf freqError aligned →
      Mean metrics m sf mean →
      (32000000 < (aligned - livePps).toNat → (∀ i, 32000000 ≤ (aligned - s.slotAt i).toNat) →
        endsWith 5#8 none) ∧
      ∀ (ref : Word) (j : BitVec 4) (interval : Nat), s.References aligned livePps ref j →
        interval = (s.slotAt j - s.slotAt (j - 1#4)).toNat →
        (¬ (26666667 ≤ interval ∧ interval ≤ 40000000) → endsWith 6#8 none) ∧
        (26666667 ≤ interval ∧ interval ≤ 40000000 → ∀ t : ℚ,
          t = ((aligned - ref).toNat + mean + notchDelay Config.board ifFreqHz) * (125 / 4)
            * (32000000 / (interval : ℚ)) →
          t < 0 ∨ 1000000000 ≤ t → endsWith 7#8 none)

/-! ## The assembler -/

/-- R240, R243 to R251, R260: a popped packet on a channel 0..9 whose CRC16 is not compared or matches gives a
record, with the frequency `RF_FREQ[IF_RF[ch]] + IF_FREQ[ch]`, the copied fields, the mapped codes and the
timestamp of TS_PKTEXP with the correction of CORR_PREC or CORR_LEGACY as the rules say; the buffer is left as
the pop leaves it and nothing else changes. -/
def Obligations.PktAsmReturnsARecord : Prop :=
  ∀ (live : Word) (s : State) (p : DecodedPacket) (r : Nat) (ch : Fin 10) (kind : IfMod) (ifHz : Int),
    s.size.toNat ≤ 4096 → s.parse recordLayout = .ok (p, r) → p.channel.toNat = ch.val →
    kind = Config.board.ifMod.get ch → ifHz = (Config.board.ifFreq.get ch).toInt →
    (kind ≠ .fsk → p.crcEn = true → crc16 Config.board p.payload = p.crc16) →
    ∃ (rec : NormalizedRxRecord) (rf expanded : Word) (corr : Int),
      Config.board.rfFreq[Config.board.ifRf.get ch]? = some rf ∧
      exec (.pktAsm live) s = .next { s with
        cursor := BitVec.ofNat 13 (s.cursor.toNat + r)
        packetCount := BitVec.ofNat 8 (s.packetCount.toNat - 1)
        status := 0#8
        output := some (.record rec) } ∧
      (rec.freqHz.toNat : ℤ) = rf.toNat + ifHz ∧
      rec.ifChain = p.channel ∧ rec.rfChain = Config.board.ifRf.get ch ∧
      rec.ifMod = kind ∧ rec.modulation = (if kind = .fsk then .fsk else .lora) ∧
      rec.modemId = p.modemId ∧ rec.bandwidth = Config.board.bw.get ch ∧
      rec.crcEn = p.crcEn ∧ rec.crcError = p.crcError ∧ rec.crcPassed = (p.crcEn && !p.crcError) ∧
      rec.snrAvg = p.snrAvg ∧ rec.rssiChanAvg = p.rssiChanAvg ∧ rec.rssiSigAvg = p.rssiSigAvg ∧
      rec.crc16 = p.crc16 ∧ rec.size = p.payloadLen ∧ rec.payload = p.payload ∧
      (if kind ≠ .fsk ∧ 5 ≤ p.datarate.toNat ∧ p.datarate.toNat ≤ 12 ∧
          1 ≤ p.codingRate.toNat ∧ p.codingRate.toNat ≤ 4
        then (p.datarate.toNat, rec.sf) ∈ [(5, .sf5), (6, .sf6), (7, .sf7), (8, .sf8), (9, .sf9), (10, .sf10),
            (11, .sf11), (12, .sf12)] ∧
          (p.codingRate.toNat, rec.cr) ∈ [(1, .cr45), (2, .cr46), (3, .cr47), (4, .cr48)]
        else rec.sf = .undefined ∧ rec.cr = .undefined) ∧
      (kind = .fsk → corr = Config.board.fskCorr p ∧ rec.freqOffsetHz = 0) ∧
      (kind ≠ .fsk → rec.freqOffsetHz =
        (p.freqOffset * (match rec.bandwidth with | .bw125 => 119209 | .bw250 => 238419 | .bw500 => 476837)).tdiv
            1000000
          + (ifHz - ((ifHz * 32).tdiv 15625 * 15625).tdiv 32)) ∧
      (kind ≠ .fsk → 5 ≤ p.datarate.toNat → p.datarate.toNat ≤ 12 →
        exec (if Config.board.ftimeEn
            then .corrPrec rec.bandwidth p.datarate.toNat p.codingRate p.crcEn p.payloadLen
            else .corrLegacy rec.bandwidth p.datarate.toNat p.codingRate p.crcEn p.payloadLen) s =
          .next { s with status := 0#8, output := some (.correction corr) }) ∧
      (kind ≠ .fsk → ¬ (5 ≤ p.datarate.toNat ∧ p.datarate.toNat ≤ 12) → corr = 0) ∧
      exec (.tsPktexp (BitVec.ofNat 27 (p.timestamp.toNat / 32))) s =
        .next { s with status := 0#8, output := some (.expanded expanded) } ∧
      (rec.countUs.toNat : ℤ) = (expanded.toNat + corr) % 2 ^ 32

/-- R241, R242: a failed pop, and a popped record with a channel above 9, discard the buffer and report the
pop's failure or OutOfRangeMetadata; nothing else changes. -/
def Obligations.PktAsmDiscardsAfterAFailedPop : Prop :=
  ∀ (live : Word) (s : State), s.size.toNat ≤ 4096 →
    (∀ f, s.parse recordLayout = .error f → exec (.pktAsm live) s = .next { s with
      size := 0#13, cursor := 0#13, packetCount := 0#8, status := failureCode f, output := none }) ∧
    (∀ p r, s.parse recordLayout = .ok (p, r) → 9 < p.channel.toNat → exec (.pktAsm live) s = .next { s with
      size := 0#13, cursor := 0#13, packetCount := 0#8, status := 3#8, output := none })

/-- R245: under every legal configuration, on a LoRa channel a popped packet with the CRC enabled and a CRC16
that differs is rejected and the buffer kept as the pop left it; and the machine runs PKT_ASM under a legal
configuration. -/
def Obligations.Crc16MismatchKeepsTheBuffer : Prop :=
  (∀ (c : Config) (live : Word) (s : State) (p : DecodedPacket) (r : Nat) (ch : Fin 10), c.Legal →
    s.size.toNat ≤ 4096 → s.parse c.layout = .ok (p, r) → p.channel.toNat = ch.val → c.ifMod.get ch ≠ .fsk →
    p.crcEn = true → crc16 c p.payload ≠ p.crc16 →
    pktAsmWith c live s = .next { s with
      cursor := BitVec.ofNat 13 (s.cursor.toNat + r)
      packetCount := BitVec.ofNat 8 (s.packetCount.toNat - 1)
      status := 4#8
      output := none }) ∧
  Config.board.Legal ∧ ∀ (live : Word) (s : State), exec (.pktAsm live) s = pktAsmWith Config.board live s

/-- R252, R254: the live PPS value and the ring reach no field of a record but its two fine timestamp fields;
a fine timestamp is present only with a full ring and on an eligible packet (LoRa, an SF code in 5..12, a metric,
its timing set, its CRC passed), lies below `10^9`, and is 0 where it is absent; a failed calculation does not
fail the packet. -/
def Obligations.FineTimestampOnlyOverlays : Prop :=
  ∀ (c : Config) (live live' : Word) (s s' t : State) (a : NormalizedRxRecord),
    s' = { s with slot := s'.slot, widx := s'.widx, fill := s'.fill } →
    pktAsmWith c live s = .next t → t.output = some (.record a) →
    (∃ (t' : State) (b : NormalizedRxRecord), pktAsmWith c live' s' = .next t' ∧ t'.output = some (.record b) ∧
      t'.status = 0#8 ∧ b = { a with ftimePresent := b.ftimePresent, ftimeNs := b.ftimeNs }) ∧
    a.ftimeNs.toNat < 1000000000 ∧ (a.ftimePresent = false → a.ftimeNs = 0#32) ∧
    (a.ftimePresent = true → 16 ≤ s.fill.toNat ∧ a.modulation = .lora ∧ a.crcPassed = true ∧
      ∃ p r, s.parse c.layout = .ok (p, r) ∧ 1 ≤ p.numMetrics.toNat ∧ p.timingSet = true ∧
        5 ≤ p.datarate.toNat ∧ p.datarate.toNat ≤ 12)

/-- R252, R253, R254: under every configuration a record carries what FTIME_CALC gives for the packet's metrics,
its whole timestamp, its datarate code, the channel's IF frequency and the exact quotient of the frequency
offset and the frequency, if the packet is eligible and the calculation succeeds; no fine timestamp otherwise.
The machine runs both operations under its configuration. -/
def Obligations.FineTimestampIsFtimeCalc : Prop :=
  (∀ (c : Config) (live : Word) (s t u : State) (p : DecodedPacket) (r : Nat) (rec : NormalizedRxRecord)
      (ch : Fin 10),
    s.parse c.layout = .ok (p, r) → p.channel.toNat = ch.val →
    pktAsmWith c live s = .next t → t.output = some (.record rec) →
    let eligible : Prop := c.ifMod.get ch ≠ .fsk ∧ 5 ≤ p.datarate.toNat ∧ p.datarate.toNat ≤ 12 ∧
      1 ≤ p.numMetrics.toNat ∧ p.timingSet = true ∧ p.crcEn = true ∧ p.crcError = false
    (¬ eligible → rec.ftimePresent = false ∧ rec.ftimeNs = 0#32) ∧
    (eligible → ftimeCalcWith c p.metrics p.numMetrics p.timestamp p.datarate.toNat (c.ifFreq.get ch)
        ((rec.freqOffsetHz : ℚ) / rec.freqHz.toNat) live s = .next u →
      (∀ v, u.output = some (.fine v) → rec.ftimePresent = true ∧ rec.ftimeNs = v) ∧
      (u.output = none → rec.ftimePresent = false ∧ rec.ftimeNs = 0#32))) ∧
  (∀ (live : Word) (s : State), exec (.pktAsm live) s = pktAsmWith Config.board live s) ∧
  ∀ (metrics : List Byte) (m : Byte) (ts : Word) (sf : Nat) (f : Word) (fe : ℚ) (live : Word) (s : State),
    exec (.ftimeCalc metrics m ts sf f fe live) s = ftimeCalcWith Config.board metrics m ts sf f fe live s

/-- R256, R257: on legal operands, however many live values are listed, RECEIVE ends with STATUS 0, no packet
left and at most 178 records; the domains and the ring are as the cycle's counter sample leaves them, and no byte
changes but those that the fetch stores. Other operands are refused. That a cycle with fewer live values than
packets runs on is the model's choice (log 14). -/
def Obligations.ReceiveAlwaysEndsOk : Prop :=
  ∀ (len1 len2 : Half) (data : List Byte) (pair : Vector Byte 8) (lives : List Word) (s : State),
    (FetchLegal len1 len2 data → ∃ (t u : State) (out : List NormalizedRxRecord)
        (x y : Word),
      exec (.receive len1 len2 data pair lives) s = .next t ∧ exec (.cntSample pair) s = .next u ∧
      t.status = 0#8 ∧ t.packetCount = 0#8 ∧ out.length ≤ 178 ∧
      u.output = some (.sample x y) ∧ t.output = some (.cycle out x y) ∧
      (∀ a, (∀ k, 23 ≤ data.length → findSync data = some k → data.length - k ≤ a) → t.byte a = s.byte a) ∧
      t.inst = u.inst ∧ t.pps = u.pps ∧ t.slot = u.slot ∧ t.widx = u.widx ∧ t.fill = u.fill) ∧
    (¬ FetchLegal len1 len2 data → exec (.receive len1 len2 data pair lives) s =
      .refused (.precondition .fetchOperands))

/-- R257, R184 (a), R260: a buffer of well-formed back-to-back records gives exactly those records, in their order,
each with every field that is copied from it and its channel's configuration, and leaves no packet. A CRC16
field has to match on a LoRa channel alone (R245). That a cycle with fewer live values than records returns them
all is the model's choice (log 14). -/
def Obligations.ReceiveReturnsEveryGoodRecord : Prop :=
  ∀ (len1 len2 : Half) (rs : List (List Byte)) (pair : Vector Byte 8) (lives : List Word) (s : State),
    FetchLegal len1 len2 rs.flatten → s.BufferCanonical →
    (∀ b ∈ rs, GoodRecord Config.board b) →
    ∃ (t : State) (out : List NormalizedRxRecord) (x y : Word),
      exec (.receive len1 len2 rs.flatten pair lives) s = .next t ∧ t.output = some (.cycle out x y) ∧
      List.Forall₂ (CopiesRecord Config.board) rs out ∧
      t.packetCount = 0#8 ∧ t.cursor.toNat = rs.flatten.length ∧ t.size = t.cursor ∧ t.status = 0#8

/-- R256, R258: RECEIVE does what its operations do one after the other: BUF_FETCH, CNT_SAMPLE, then PKT_ASM
while packets remain, with the listed live values; only STATUS, the results and the model's count of cycles
differ at the end. A list too short for its cycle acts as some continuation of it does (the model's choice,
log 14). -/
def Obligations.ReceiveIsItsSteps : Prop :=
  (∀ (len1 len2 : Half) (data : List Byte) (pair : Vector Byte 8) (lives : List Word) (s a b d : State)
      (out : List NormalizedRxRecord),
    exec (.bufFetch len1 len2 data) s = .next a → exec (.cntSample pair) a = .next b →
    assembleAll lives b [] = some (d, out) →
    ∃ x y : Word, b.output = some (.sample x y) ∧
      exec (.receive len1 len2 data pair lives) s =
        .next { d with status := 0#8, output := some (.cycle out x y), cycles := s.cycles + 1 }) ∧
  ∀ (len1 len2 : Half) (data : List Byte) (pair : Vector Byte 8) (lives : List Word) (s : State),
    ∃ more : List Word, 178 ≤ (lives ++ more).length ∧
      exec (.receive len1 len2 data pair lives) s = exec (.receive len1 len2 data pair (lives ++ more)) s

/-! ## Rules over all operations -/

/-- R42, R43, R24, R47, R48: what a step with a request does and hands over depends on nothing but the
observable state: states that differ in STATUS, in the results handed over last, in bytes at or above `size` and
in slots never stored stay indistinguishable. -/
def Obligations.UnobservableStateStaysUnobserved : Prop :=
  ∀ s t : State, s.BufferCanonical → t.BufferCanonical → s.Alike t → s.port ≠ [] →
    AlikeOutcome (step s) (step t)

/-- R272: the statuses each operation can end with. -/
def Obligations.OnlyTheAllowedStatusesOccur : Prop :=
  ∀ (i : Instr) (s t : State), exec i s = .next t → t.status ∈ allowedStatuses i

/-- R43, R270, R272, R276: a failing operation writes one of its own codes to STATUS and delivers no result, and its
effects on the state are exactly these: none for BUF_POP (codes 1 to 3) and FTIME_CALC (5 to 7); an empty buffer
for BUF_FETCH (1) and, under every configuration, for PKT_ASM (1 to 3), but for Crc16Mismatch (4), which leaves the
state of the successful pop. No other operation fails. Which code is written when is said by
BufPopFailuresChangeOnlyStatus, FtimeCalcEndsInRangeOrFails and PktAsmDiscardsAfterAFailedPop. -/
def Obligations.FailuresHaveExactlyTheirEffects : Prop :=
  (∀ (i : Instr) (s t : State), exec i s = .next t → t.status ≠ 0#8 →
    i.opcode ∈ [Opcode.bufFetch, .bufPop, .ftimeCalc, .pktAsm] ∧
    (i.opcode = .bufPop → t.status ∈ [1#8, 2#8, 3#8] ∧ t = { s with status := t.status, output := none }) ∧
    (i.opcode = .ftimeCalc → t.status ∈ [5#8, 6#8, 7#8] ∧ t = { s with status := t.status, output := none }) ∧
    (i.opcode = .bufFetch → t = { s with
      buf := t.buf, size := 0#13, cursor := 0#13, packetCount := 0#8, status := 1#8, output := none })) ∧
  (∀ (live : Word) (s : State), exec (.pktAsm live) s = pktAsmWith Config.board live s) ∧
  ∀ (c : Config) (live : Word) (s t : State), pktAsmWith c live s = .next t → t.status ≠ 0#8 →
    (t.status ≠ 4#8 → t.status ∈ [1#8, 2#8, 3#8] ∧ t = { s with
      size := 0#13, cursor := 0#13, packetCount := 0#8, status := t.status, output := none }) ∧
    (t.status = 4#8 → ∃ p r, s.parse c.layout = .ok (p, r) ∧
      t = { s with
        cursor := BitVec.ofNat 13 (s.cursor.toNat + r)
        packetCount := BitVec.ofNat 8 (s.packetCount.toNat - 1)
        status := 4#8
        output := none })

/-- R279, R407: every operation is total: from every state within the ranges, a well-formed operation ends in a
next state within the ranges. -/
def Obligations.EveryOperationIsTotal : Prop :=
  ∀ (i : Instr) (s : State), s.RangesOk → i.WellFormed →
    ∃ t, exec i s = .next t ∧ t.RangesOk
end

