-- ==== Sys2Proof/Laws/State.lean ====
section
/-! SUPPORT. What each update of the state does to each field: one lemma per field per update, so that no
proof unfolds a record update. -/

namespace Sys2Proof.Machine

/-! ## Completing an operation -/

@[simp] theorem State.finish_buf (s : State) (r : Option Result) :
    (s.finish r).buf = s.buf := rfl

@[simp] theorem State.finish_size (s : State) (r : Option Result) :
    (s.finish r).size = s.size := rfl

@[simp] theorem State.finish_cursor (s : State) (r : Option Result) :
    (s.finish r).cursor = s.cursor := rfl

@[simp] theorem State.finish_packetCount (s : State) (r : Option Result) :
    (s.finish r).packetCount = s.packetCount := rfl

@[simp] theorem State.finish_inst (s : State) (r : Option Result) :
    (s.finish r).inst = s.inst := rfl

@[simp] theorem State.finish_pps (s : State) (r : Option Result) :
    (s.finish r).pps = s.pps := rfl

@[simp] theorem State.finish_slot (s : State) (r : Option Result) :
    (s.finish r).slot = s.slot := rfl

@[simp] theorem State.finish_widx (s : State) (r : Option Result) :
    (s.finish r).widx = s.widx := rfl

@[simp] theorem State.finish_fill (s : State) (r : Option Result) :
    (s.finish r).fill = s.fill := rfl

@[simp] theorem State.finish_status (s : State) (r : Option Result) :
    (s.finish r).status = statusOk := rfl

@[simp] theorem State.finish_port (s : State) (r : Option Result) :
    (s.finish r).port = s.port := rfl

@[simp] theorem State.finish_output (s : State) (r : Option Result) :
    (s.finish r).output = r := rfl

@[simp] theorem State.finish_cycles (s : State) (r : Option Result) :
    (s.finish r).cycles = s.cycles := rfl

/-! ## Failing an operation -/

@[simp] theorem State.fail_buf (s : State) (f : Failure) :
    (s.fail f).buf = s.buf := rfl

@[simp] theorem State.fail_size (s : State) (f : Failure) :
    (s.fail f).size = s.size := rfl

@[simp] theorem State.fail_cursor (s : State) (f : Failure) :
    (s.fail f).cursor = s.cursor := rfl

@[simp] theorem State.fail_packetCount (s : State) (f : Failure) :
    (s.fail f).packetCount = s.packetCount := rfl

@[simp] theorem State.fail_inst (s : State) (f : Failure) :
    (s.fail f).inst = s.inst := rfl

@[simp] theorem State.fail_pps (s : State) (f : Failure) :
    (s.fail f).pps = s.pps := rfl

@[simp] theorem State.fail_slot (s : State) (f : Failure) :
    (s.fail f).slot = s.slot := rfl

@[simp] theorem State.fail_widx (s : State) (f : Failure) :
    (s.fail f).widx = s.widx := rfl

@[simp] theorem State.fail_fill (s : State) (f : Failure) :
    (s.fail f).fill = s.fill := rfl

@[simp] theorem State.fail_status (s : State) (f : Failure) :
    (s.fail f).status = failureCode f := rfl

@[simp] theorem State.fail_port (s : State) (f : Failure) :
    (s.fail f).port = s.port := rfl

@[simp] theorem State.fail_output (s : State) (f : Failure) :
    (s.fail f).output = none := rfl

@[simp] theorem State.fail_cycles (s : State) (f : Failure) :
    (s.fail f).cycles = s.cycles := rfl

/-! ## Clearing the buffer -/

@[simp] theorem State.clearBuffer_buf (s : State) :
    (s.clearBuffer).buf = s.buf := rfl

@[simp] theorem State.clearBuffer_size (s : State) :
    (s.clearBuffer).size = 0#13 := rfl

@[simp] theorem State.clearBuffer_cursor (s : State) :
    (s.clearBuffer).cursor = 0#13 := rfl

@[simp] theorem State.clearBuffer_packetCount (s : State) :
    (s.clearBuffer).packetCount = 0#8 := rfl

@[simp] theorem State.clearBuffer_inst (s : State) :
    (s.clearBuffer).inst = s.inst := rfl

@[simp] theorem State.clearBuffer_pps (s : State) :
    (s.clearBuffer).pps = s.pps := rfl

@[simp] theorem State.clearBuffer_slot (s : State) :
    (s.clearBuffer).slot = s.slot := rfl

@[simp] theorem State.clearBuffer_widx (s : State) :
    (s.clearBuffer).widx = s.widx := rfl

@[simp] theorem State.clearBuffer_fill (s : State) :
    (s.clearBuffer).fill = s.fill := rfl

@[simp] theorem State.clearBuffer_status (s : State) :
    (s.clearBuffer).status = s.status := rfl

@[simp] theorem State.clearBuffer_port (s : State) :
    (s.clearBuffer).port = s.port := rfl

@[simp] theorem State.clearBuffer_output (s : State) :
    (s.clearBuffer).output = s.output := rfl

@[simp] theorem State.clearBuffer_cycles (s : State) :
    (s.clearBuffer).cycles = s.cycles := rfl

/-! ## A successful pop -/

@[simp] theorem State.popped_buf (s : State) (r : Nat) :
    (s.popped r).buf = s.buf := rfl

@[simp] theorem State.popped_size (s : State) (r : Nat) :
    (s.popped r).size = s.size := rfl

@[simp] theorem State.popped_cursor (s : State) (r : Nat) :
    (s.popped r).cursor = BitVec.ofNat 13 (s.cursor.toNat + r) := rfl

@[simp] theorem State.popped_packetCount (s : State) (r : Nat) :
    (s.popped r).packetCount = if s.packetCount = 0#8 then 0#8 else s.packetCount - 1#8 := rfl

@[simp] theorem State.popped_inst (s : State) (r : Nat) :
    (s.popped r).inst = s.inst := rfl

@[simp] theorem State.popped_pps (s : State) (r : Nat) :
    (s.popped r).pps = s.pps := rfl

@[simp] theorem State.popped_slot (s : State) (r : Nat) :
    (s.popped r).slot = s.slot := rfl

@[simp] theorem State.popped_widx (s : State) (r : Nat) :
    (s.popped r).widx = s.widx := rfl

@[simp] theorem State.popped_fill (s : State) (r : Nat) :
    (s.popped r).fill = s.fill := rfl

@[simp] theorem State.popped_status (s : State) (r : Nat) :
    (s.popped r).status = s.status := rfl

@[simp] theorem State.popped_port (s : State) (r : Nat) :
    (s.popped r).port = s.port := rfl

@[simp] theorem State.popped_output (s : State) (r : Nat) :
    (s.popped r).output = s.output := rfl

@[simp] theorem State.popped_cycles (s : State) (r : Nat) :
    (s.popped r).cycles = s.cycles := rfl

/-! ## Loading the buffer -/

@[simp] theorem State.load_buf (s : State) (d : List Byte) :
    (s.load d).buf = memWriteAll s.buf 0 d := rfl

@[simp] theorem State.load_size (s : State) (d : List Byte) :
    (s.load d).size = BitVec.ofNat 13 d.length := rfl

@[simp] theorem State.load_cursor (s : State) (d : List Byte) :
    (s.load d).cursor = s.cursor := rfl

@[simp] theorem State.load_packetCount (s : State) (d : List Byte) :
    (s.load d).packetCount = s.packetCount := rfl

@[simp] theorem State.load_inst (s : State) (d : List Byte) :
    (s.load d).inst = s.inst := rfl

@[simp] theorem State.load_pps (s : State) (d : List Byte) :
    (s.load d).pps = s.pps := rfl

@[simp] theorem State.load_slot (s : State) (d : List Byte) :
    (s.load d).slot = s.slot := rfl

@[simp] theorem State.load_widx (s : State) (d : List Byte) :
    (s.load d).widx = s.widx := rfl

@[simp] theorem State.load_fill (s : State) (d : List Byte) :
    (s.load d).fill = s.fill := rfl

@[simp] theorem State.load_status (s : State) (d : List Byte) :
    (s.load d).status = s.status := rfl

@[simp] theorem State.load_port (s : State) (d : List Byte) :
    (s.load d).port = s.port := rfl

@[simp] theorem State.load_output (s : State) (d : List Byte) :
    (s.load d).output = s.output := rfl

@[simp] theorem State.load_cycles (s : State) (d : List Byte) :
    (s.load d).cycles = s.cycles := rfl

/-! ## An update of both domains -/

@[simp] theorem State.tsUpdate_buf (s : State) (p i : Raw27) :
    (s.tsUpdate p i).buf = s.buf := rfl

@[simp] theorem State.tsUpdate_size (s : State) (p i : Raw27) :
    (s.tsUpdate p i).size = s.size := rfl

@[simp] theorem State.tsUpdate_cursor (s : State) (p i : Raw27) :
    (s.tsUpdate p i).cursor = s.cursor := rfl

@[simp] theorem State.tsUpdate_packetCount (s : State) (p i : Raw27) :
    (s.tsUpdate p i).packetCount = s.packetCount := rfl

@[simp] theorem State.tsUpdate_inst (s : State) (p i : Raw27) :
    (s.tsUpdate p i).inst = s.inst.update i := rfl

@[simp] theorem State.tsUpdate_pps (s : State) (p i : Raw27) :
    (s.tsUpdate p i).pps = s.pps.update p := rfl

@[simp] theorem State.tsUpdate_slot (s : State) (p i : Raw27) :
    (s.tsUpdate p i).slot = s.slot := rfl

@[simp] theorem State.tsUpdate_widx (s : State) (p i : Raw27) :
    (s.tsUpdate p i).widx = s.widx := rfl

@[simp] theorem State.tsUpdate_fill (s : State) (p i : Raw27) :
    (s.tsUpdate p i).fill = s.fill := rfl

@[simp] theorem State.tsUpdate_status (s : State) (p i : Raw27) :
    (s.tsUpdate p i).status = s.status := rfl

@[simp] theorem State.tsUpdate_port (s : State) (p i : Raw27) :
    (s.tsUpdate p i).port = s.port := rfl

@[simp] theorem State.tsUpdate_output (s : State) (p i : Raw27) :
    (s.tsUpdate p i).output = s.output := rfl

@[simp] theorem State.tsUpdate_cycles (s : State) (p i : Raw27) :
    (s.tsUpdate p i).cycles = s.cycles := rfl

/-! ## Placing a request -/

@[simp] theorem State.placeRequest_buf (s : State) (r : Request) :
    (s.placeRequest r).buf = s.buf := rfl

@[simp] theorem State.placeRequest_size (s : State) (r : Request) :
    (s.placeRequest r).size = s.size := rfl

@[simp] theorem State.placeRequest_cursor (s : State) (r : Request) :
    (s.placeRequest r).cursor = s.cursor := rfl

@[simp] theorem State.placeRequest_packetCount (s : State) (r : Request) :
    (s.placeRequest r).packetCount = s.packetCount := rfl

@[simp] theorem State.placeRequest_inst (s : State) (r : Request) :
    (s.placeRequest r).inst = s.inst := rfl

@[simp] theorem State.placeRequest_pps (s : State) (r : Request) :
    (s.placeRequest r).pps = s.pps := rfl

@[simp] theorem State.placeRequest_slot (s : State) (r : Request) :
    (s.placeRequest r).slot = s.slot := rfl

@[simp] theorem State.placeRequest_widx (s : State) (r : Request) :
    (s.placeRequest r).widx = s.widx := rfl

@[simp] theorem State.placeRequest_fill (s : State) (r : Request) :
    (s.placeRequest r).fill = s.fill := rfl

@[simp] theorem State.placeRequest_status (s : State) (r : Request) :
    (s.placeRequest r).status = s.status := rfl

@[simp] theorem State.placeRequest_port (s : State) (r : Request) :
    (s.placeRequest r).port = r :: s.port := rfl

@[simp] theorem State.placeRequest_output (s : State) (r : Request) :
    (s.placeRequest r).output = s.output := rfl

@[simp] theorem State.placeRequest_cycles (s : State) (r : Request) :
    (s.placeRequest r).cycles = s.cycles := rfl

/-! ## Storing a PPS snapshot -/

@[simp] theorem State.savePps_buf (s : State) (raw : Word) :
    (s.savePps raw).buf = s.buf := by
  unfold State.savePps; split <;> rfl

@[simp] theorem State.savePps_size (s : State) (raw : Word) :
    (s.savePps raw).size = s.size := by
  unfold State.savePps; split <;> rfl

@[simp] theorem State.savePps_cursor (s : State) (raw : Word) :
    (s.savePps raw).cursor = s.cursor := by
  unfold State.savePps; split <;> rfl

@[simp] theorem State.savePps_packetCount (s : State) (raw : Word) :
    (s.savePps raw).packetCount = s.packetCount := by
  unfold State.savePps; split <;> rfl

@[simp] theorem State.savePps_inst (s : State) (raw : Word) :
    (s.savePps raw).inst = s.inst := by
  unfold State.savePps; split <;> rfl

@[simp] theorem State.savePps_pps (s : State) (raw : Word) :
    (s.savePps raw).pps = s.pps := by
  unfold State.savePps; split <;> rfl

@[simp] theorem State.savePps_status (s : State) (raw : Word) :
    (s.savePps raw).status = s.status := by
  unfold State.savePps; split <;> rfl

@[simp] theorem State.savePps_port (s : State) (raw : Word) :
    (s.savePps raw).port = s.port := by
  unfold State.savePps; split <;> rfl

@[simp] theorem State.savePps_output (s : State) (raw : Word) :
    (s.savePps raw).output = s.output := by
  unfold State.savePps; split <;> rfl

@[simp] theorem State.savePps_cycles (s : State) (raw : Word) :
    (s.savePps raw).cycles = s.cycles := by
  unfold State.savePps; split <;> rfl

/-! ## Counting a cycle -/

@[simp] theorem State.countCycle_buf (s : State) :
    s.countCycle.buf = s.buf := rfl

@[simp] theorem State.countCycle_size (s : State) :
    s.countCycle.size = s.size := rfl

@[simp] theorem State.countCycle_cursor (s : State) :
    s.countCycle.cursor = s.cursor := rfl

@[simp] theorem State.countCycle_packetCount (s : State) :
    s.countCycle.packetCount = s.packetCount := rfl

@[simp] theorem State.countCycle_inst (s : State) :
    s.countCycle.inst = s.inst := rfl

@[simp] theorem State.countCycle_pps (s : State) :
    s.countCycle.pps = s.pps := rfl

@[simp] theorem State.countCycle_slot (s : State) :
    s.countCycle.slot = s.slot := rfl

@[simp] theorem State.countCycle_widx (s : State) :
    s.countCycle.widx = s.widx := rfl

@[simp] theorem State.countCycle_fill (s : State) :
    s.countCycle.fill = s.fill := rfl

@[simp] theorem State.countCycle_status (s : State) :
    s.countCycle.status = s.status := rfl

@[simp] theorem State.countCycle_port (s : State) :
    s.countCycle.port = s.port := rfl

@[simp] theorem State.countCycle_output (s : State) :
    s.countCycle.output = s.output := rfl

@[simp] theorem State.countCycle_cycles (s : State) :
    s.countCycle.cycles = s.cycles + 1 := rfl

/-! ## A counter sample -/

@[simp] theorem State.sampleCounters_buf (l : PairLayout) (s : State) (pair : Vector Byte 8) :
    (s.sampleCounters l pair).buf = s.buf := by
  simp [State.sampleCounters]

@[simp] theorem State.sampleCounters_size (l : PairLayout) (s : State) (pair : Vector Byte 8) :
    (s.sampleCounters l pair).size = s.size := by
  simp [State.sampleCounters]

@[simp] theorem State.sampleCounters_cursor (l : PairLayout) (s : State) (pair : Vector Byte 8) :
    (s.sampleCounters l pair).cursor = s.cursor := by
  simp [State.sampleCounters]

@[simp] theorem State.sampleCounters_packetCount (l : PairLayout) (s : State) (pair : Vector Byte 8) :
    (s.sampleCounters l pair).packetCount = s.packetCount := by
  simp [State.sampleCounters]

@[simp] theorem State.sampleCounters_inst (l : PairLayout) (s : State) (pair : Vector Byte 8) :
    (s.sampleCounters l pair).inst = s.inst.update (raw27Of (pairInst l pair)) := by
  simp [State.sampleCounters]

@[simp] theorem State.sampleCounters_pps (l : PairLayout) (s : State) (pair : Vector Byte 8) :
    (s.sampleCounters l pair).pps = s.pps.update (raw27Of (pairPps l pair)) := by
  simp [State.sampleCounters]

@[simp] theorem State.sampleCounters_slot (l : PairLayout) (s : State) (pair : Vector Byte 8) :
    (s.sampleCounters l pair).slot = (s.savePps (pairPps l pair)).slot := rfl

@[simp] theorem State.sampleCounters_widx (l : PairLayout) (s : State) (pair : Vector Byte 8) :
    (s.sampleCounters l pair).widx = (s.savePps (pairPps l pair)).widx := rfl

@[simp] theorem State.sampleCounters_fill (l : PairLayout) (s : State) (pair : Vector Byte 8) :
    (s.sampleCounters l pair).fill = (s.savePps (pairPps l pair)).fill := rfl

@[simp] theorem State.sampleCounters_status (l : PairLayout) (s : State) (pair : Vector Byte 8) :
    (s.sampleCounters l pair).status = s.status := by
  simp [State.sampleCounters]

@[simp] theorem State.sampleCounters_port (l : PairLayout) (s : State) (pair : Vector Byte 8) :
    (s.sampleCounters l pair).port = s.port := by
  simp [State.sampleCounters]

@[simp] theorem State.sampleCounters_output (l : PairLayout) (s : State) (pair : Vector Byte 8) :
    (s.sampleCounters l pair).output = s.output := by
  simp [State.sampleCounters]

@[simp] theorem State.sampleCounters_cycles (l : PairLayout) (s : State) (pair : Vector Byte 8) :
    (s.sampleCounters l pair).cycles = s.cycles := by
  simp [State.sampleCounters]

/-! ## What depends on one field only -/

@[simp] theorem State.finish_byte (s : State) (r : Option Result) : (s.finish r).byte = s.byte := rfl

@[simp] theorem State.fail_byte (s : State) (f : Failure) : (s.fail f).byte = s.byte := rfl

@[simp] theorem State.clearBuffer_byte (s : State) : s.clearBuffer.byte = s.byte := rfl

@[simp] theorem State.popped_byte (s : State) (r : Nat) : (s.popped r).byte = s.byte := rfl

@[simp] theorem State.finish_slotAt (s : State) (r : Option Result) : (s.finish r).slotAt = s.slotAt := rfl

@[simp] theorem State.fail_slotAt (s : State) (f : Failure) : (s.fail f).slotAt = s.slotAt := rfl

@[simp] theorem State.sampleCounters_byte (l : PairLayout) (s : State) (pair : Vector Byte 8) :
    (s.sampleCounters l pair).byte = s.byte := by
  funext a; simp [State.byte]

end Sys2Proof.Machine
end

