-- ==== Sys2Proof/Laws/Mem.lean ====
section
/-! SUPPORT. The laws of the buffer memory: read after write, the bytes a write leaves alone, and the
canonical form that every memory operation keeps. -/

namespace Sys2Proof.Machine

open Sys2Proof.Params

/-! ## The canonical form -/

theorem memWfFrom_cons (lo a : Nat) (v : Byte) (r : List Host.Cell) :
    memWfFrom lo ((a, v) :: r) = true ↔
      lo ≤ a ∧ a < bufCap ∧ v ≠ unlistedByte ∧ memWfFrom (a + 1) r = true := by
  simp [memWfFrom, and_assoc]

/-- The canonical form from a bound on holds from any lower bound on. -/
theorem memWfFrom_mono {lo lo' : Nat} (h : lo' ≤ lo) {mem : List Host.Cell}
    (hw : memWfFrom lo mem = true) : memWfFrom lo' mem = true := by
  cases mem with
  | nil => rfl
  | cons c r =>
    obtain ⟨a, v⟩ := c
    rw [memWfFrom_cons] at hw ⊢
    exact ⟨by omega, hw.2⟩

/-- An address below the bound is not listed. -/
theorem memRead_below {mem : List Host.Cell} : ∀ {lo a : Nat}, memWfFrom lo mem = true → a < lo →
    memRead mem a = unlistedByte := by
  induction mem with
  | nil => intros; rfl
  | cons c r ih =>
    obtain ⟨b, v⟩ := c
    intro lo a hw ha
    rw [memWfFrom_cons] at hw
    have hne : a ≠ b := by omega
    simp only [memRead, hne, if_false]
    exact ih hw.2.2.2 (by omega)

/-- A write inside the buffer keeps the canonical form. -/
theorem memWrite_wfFrom {mem : List Host.Cell} {a : Nat} {v : Byte} (hc : a < bufCap) :
    ∀ {lo : Nat}, lo ≤ a → memWfFrom lo mem = true → memWfFrom lo (memWrite mem a v) = true := by
  induction mem with
  | nil =>
    intro lo hlo _
    by_cases hv : v = unlistedByte
    · simp [memWrite, hv, memWfFrom]
    · simp only [memWrite, hv, if_false]
      exact (memWfFrom_cons ..).2 ⟨hlo, hc, hv, rfl⟩
  | cons c r ih =>
    obtain ⟨b, w⟩ := c
    intro lo hlo hw
    have hw' := (memWfFrom_cons ..).1 hw
    by_cases hab : a < b
    · by_cases hv : v = unlistedByte
      · simpa [memWrite, hab, hv] using hw
      · simp only [memWrite, hab, hv, if_true, if_false]
        exact (memWfFrom_cons ..).2
          ⟨hlo, hc, hv, (memWfFrom_cons ..).2 ⟨by omega, hw'.2⟩⟩
    · by_cases he : a = b
      · subst he
        by_cases hv : v = unlistedByte
        · simp only [memWrite, hab, hv, if_true, if_false]
          exact memWfFrom_mono (by omega) hw'.2.2.2
        · simp only [memWrite, hab, hv, if_true, if_false]
          exact (memWfFrom_cons ..).2 ⟨hlo, hc, hv, hw'.2.2.2⟩
      · simp only [memWrite, hab, he, if_false]
        exact (memWfFrom_cons ..).2 ⟨hw'.1, hw'.2.1, hw'.2.2.1, ih (by omega) hw'.2.2.2⟩

/-- A write inside the buffer keeps the canonical form. -/
theorem memWrite_wf {mem : List Host.Cell} {a : Nat} {v : Byte} (hc : a < bufCap)
    (hw : memWf mem = true) : memWf (memWrite mem a v) = true :=
  memWrite_wfFrom hc (Nat.zero_le a) hw

/-- Writing a byte string that lies inside the buffer keeps the canonical form. -/
theorem memWriteAll_wf {d : List Byte} : ∀ {mem : List Host.Cell} {a : Nat}, a + d.length ≤ bufCap →
    memWf mem = true → memWf (memWriteAll mem a d) = true := by
  induction d with
  | nil => intro mem a _ hw; exact hw
  | cons v d ih =>
    intro mem a ha hw
    simp only [List.length_cons] at ha
    exact ih (by omega) (memWrite_wf (by omega) hw)

/-- The buffer memory after reset has the canonical form. -/
theorem reset_memWf : memWf State.reset.buf = true := rfl

/-! ## Reading after writing -/

/-- Reading the address written gives the byte written. -/
theorem memRead_memWrite_same {mem : List Host.Cell} {a : Nat} {v : Byte} :
    ∀ {lo : Nat}, memWfFrom lo mem = true → memRead (memWrite mem a v) a = v := by
  induction mem with
  | nil =>
    intro lo _
    by_cases hv : v = unlistedByte <;> simp [memWrite, memRead, hv]
  | cons c r ih =>
    obtain ⟨b, w⟩ := c
    intro lo hw
    have hw' := (memWfFrom_cons ..).1 hw
    by_cases hab : a < b
    · by_cases hv : v = unlistedByte
      · simp only [memWrite, hab, hv, if_true]
        exact memRead_below ((memWfFrom_cons ..).2 ⟨le_refl b, hw'.2⟩) hab
      · simp [memWrite, memRead, hab, hv]
    · by_cases he : a = b
      · subst he
        by_cases hv : v = unlistedByte
        · simp only [memWrite, hab, hv, if_true, if_false]
          exact memRead_below hw'.2.2.2 (by omega)
        · simp [memWrite, memRead, hv]
      · simp only [memWrite, memRead, hab, he, if_false]
        exact ih hw'.2.2.2

/-- A write leaves every other address alone. -/
theorem memRead_memWrite_other {mem : List Host.Cell} {a b : Nat} {v : Byte} (hne : b ≠ a) :
    memRead (memWrite mem a v) b = memRead mem b := by
  induction mem with
  | nil =>
    by_cases hv : v = unlistedByte <;> simp [memWrite, memRead, hv, hne]
  | cons c r ih =>
    obtain ⟨e, w⟩ := c
    by_cases hae : a < e
    · by_cases hv : v = unlistedByte <;> simp [memWrite, memRead, hae, hv, hne]
    · by_cases he : a = e
      · subst he
        by_cases hv : v = unlistedByte <;> simp [memWrite, memRead, hv, hne]
      · simp only [memWrite, memRead, hae, he, if_false, ih]

/-- Reading after a byte string was written: a byte of the string inside it, the old byte outside. -/
theorem memRead_memWriteAll {d : List Byte} : ∀ {mem : List Host.Cell} {a : Nat}, a + d.length ≤ bufCap →
    memWf mem = true → ∀ b,
    memRead (memWriteAll mem a d) b = if a ≤ b then (d[b - a]?).getD (memRead mem b) else memRead mem b := by
  induction d with
  | nil => intro mem a _ _ b; simp [memWriteAll]
  | cons v d ih =>
    intro mem a ha hw b
    simp only [List.length_cons] at ha
    rw [memWriteAll, ih (by omega) (memWrite_wf (by omega) hw)]
    by_cases hab : a = b
    · subst hab
      simp [memRead_memWrite_same hw]
    · rw [memRead_memWrite_other (fun h => hab h.symm)]
      by_cases hlt : a + 1 ≤ b
      · have : b - a = (b - (a + 1)) + 1 := by omega
        simp [hlt, show a ≤ b by omega, this]
      · simp [show ¬ a + 1 ≤ b from hlt, show ¬ a ≤ b by omega]

/-- Two canonical memories that read alike everywhere are equal. -/
theorem memRead_ext {mem mem' : List Host.Cell} : ∀ {lo : Nat}, memWfFrom lo mem = true →
    memWfFrom lo mem' = true → (∀ a, memRead mem a = memRead mem' a) → mem = mem' := by
  induction mem generalizing mem' with
  | nil =>
    intro lo _ hw' h
    cases mem' with
    | nil => rfl
    | cons c r =>
      obtain ⟨a, v⟩ := c
      have := (memWfFrom_cons ..).1 hw'
      exact absurd (h a).symm (by simp [memRead, this.2.2.1])
  | cons c r ih =>
    obtain ⟨a, v⟩ := c
    intro lo hw hw' h
    have h1 := (memWfFrom_cons ..).1 hw
    cases mem' with
    | nil => exact absurd (h a) (by simp [memRead, h1.2.2.1])
    | cons c' r' =>
      obtain ⟨b, w⟩ := c'
      have h2 := (memWfFrom_cons ..).1 hw'
      have hab : a = b := by
        rcases Nat.lt_trichotomy a b with hlt | heq | hgt
        · have := h a
          rw [memRead_below ((memWfFrom_cons ..).2 ⟨le_refl b, h2.2⟩) hlt] at this
          exact absurd this (by simp [memRead, h1.2.2.1])
        · exact heq
        · have := h b
          rw [memRead_below ((memWfFrom_cons ..).2 ⟨le_refl a, h1.2⟩) hgt] at this
          exact absurd this.symm (by simp [memRead, h2.2.2.1])
      subst hab
      have hvw : v = w := by simpa [memRead] using h a
      subst hvw
      congr 1
      refine ih h1.2.2.2 h2.2.2.2 fun x => ?_
      by_cases hx : x = a
      · subst hx
        rw [memRead_below h1.2.2.2 (by omega), memRead_below h2.2.2.2 (by omega)]
      · simpa [memRead, hx] using h x

end Sys2Proof.Machine
end

