-- ==== Sys2Proof/Laws/Ops.lean ====
section
/-! SUPPORT. One lemma per shared operation that says once all that it can do; later proofs cite it and do not
unfold the operation. -/

namespace Sys2Proof.Machine

open Sys2Proof.Params

/-! ## Decoding and stepping -/

/-- Every operation's code selects it. -/
theorem opcodeOf_code (op : Opcode) : opcodeOf op.code = some op := by
  cases op <;> decide

theorem narrowNum_eq_ok {w n : Nat} {e : Reject} {v : BitVec w} :
    narrowNum w n e = .ok v ↔ n < 2 ^ w ∧ v = BitVec.ofNat w n := by
  unfold narrowNum
  split <;> simp_all [eq_comm]

theorem narrowNum_toNat {w : Nat} (v : BitVec w) (e : Reject) : narrowNum w v.toNat e = .ok v := by
  simp [narrowNum, v.isLt]

theorem narrowInt_eq_ok {w : Nat} {z : Int} {e : Reject} {v : BitVec w} :
    narrowInt w z e = .ok v ↔ (-2 ^ (w - 1) ≤ z ∧ z < 2 ^ (w - 1)) ∧ v = BitVec.ofInt w z := by
  unfold narrowInt
  split <;> simp_all [eq_comm]

theorem exactBytes_eq_ok {n : Nat} {d : List Byte} {e : Reject} {v : Vector Byte n} :
    exactBytes n d e = .ok v ↔ d = v.toList := by
  unfold exactBytes
  split
  · rename_i h
    constructor
    · intro hv
      cases hv
      simp
    · intro hd
      subst hd
      simp [Vector.toList]
  · rename_i h
    constructor
    · intro hv
      cases hv
    · intro hd
      subst hd
      simp at h

/-- What a request that decodes is: its code selects an operation, its operands are that operation's, and the
preconditions hold. -/
theorem decode_eq_ok {r : Request} {i : Instr} :
    decode r = .ok i ↔
      ∃ op, opcodeOf r.code = some op ∧ decodeOperands op r.operands = .ok i ∧ i.check = none := by
  unfold decode
  cases h : opcodeOf r.code with
  | none => simp
  | some op =>
    cases hd : decodeOperands op r.operands with
    | error e => simp [hd]
    | ok j =>
      cases hc : j.check with
      | none => simp [hd, hc]; exact fun hj => hj ▸ hc
      | some e =>
        simp only [hc, Option.some.injEq, exists_eq_left', hd, Except.ok.injEq, reduceCtorEq, false_iff,
          not_and]
        rintro rfl
        simp [hc]

/-- What a step can do: nothing, for want of a request; a refusal of a request that does not decode; or the
decoded operation on the state without its request. -/
theorem step_cases (s : State) :
    (s.port = [] ∧ step s = .next s) ∨
    (∃ r rest e, s.port = r :: rest ∧ decode r = .error e ∧ step s = .refused (.precondition e)) ∨
    (∃ r rest i, s.port = r :: rest ∧ decode r = .ok i ∧ step s = exec i { s with port := rest }) := by
  unfold step State.takeRequest
  cases hp : s.port with
  | nil => exact .inl ⟨rfl, rfl⟩
  | cons r rest =>
    cases hd : decode r with
    | error e => exact .inr (.inl ⟨r, rest, e, rfl, hd, by simp [hd]⟩)
    | ok i => exact .inr (.inr ⟨r, rest, i, rfl, hd, by simp [hd]⟩)

/-! ## Concluding and guarding -/

/-- How an operation concludes: with a result and STATUS 0, or with a failure's code and no result. -/
theorem conclude_eq_next {s t : State} {o : Except Failure Result} :
    s.conclude o = .next t ↔
      (∃ r, o = .ok r ∧ t = s.finish (some r)) ∨ (∃ f, o = .error f ∧ t = s.fail f) := by
  cases o <;> simp [State.conclude, eq_comm]

theorem withBuffer_of_le {α : Type} {s : State} {k : Host.Outcome α Fault Refusal}
    (h : s.size.toNat ≤ bufCap) : s.withBuffer k = k := by
  simp [State.withBuffer, h]

/-- An operation behind the buffer guard that answers a next state has a `size` inside the buffer. -/
theorem withBuffer_eq_next {α : Type} {s : State} {k : Host.Outcome α Fault Refusal} {t : α} :
    s.withBuffer k = .next t ↔ s.size.toNat ≤ bufCap ∧ k = .next t := by
  unfold State.withBuffer
  split <;> simp_all

/-! ## Domains and ring -/

/-- One domain of TS_UPDATE. -/
theorem update_cases (d : TimestampDomain) (raw : Raw27) :
    (raw < d.ref ∧ d.update raw = ⟨raw, d.wrap + 1#5⟩) ∨ (¬ raw < d.ref ∧ d.update raw = ⟨raw, d.wrap⟩) := by
  unfold TimestampDomain.update
  by_cases h : raw < d.ref
  · exact .inl ⟨h, by rw [if_pos h]⟩
  · exact .inr ⟨h, by rw [if_neg h]⟩

theorem expandWith_toNat (wrap : BitVec 5) (raw : Raw27) :
    (expandWith wrap raw).toNat = wrap.toNat * 2 ^ 27 + raw.toNat := by
  unfold expandWith
  rw [BitVec.toNat_append, Nat.shiftLeft_eq, Nat.mul_comm, ← Nat.two_pow_add_eq_or_of_lt raw.isLt]

/-- PPS_SAVE stores where the ring is empty or the value is new, and does nothing otherwise. -/
theorem savePps_cases (s : State) (raw : Word) :
    ((s.fill = 0#5 ∨ raw ≠ s.slotAt s.widx) ∧
      s.savePps raw = { s with
        widx := s.widx + 1#4
        slot := s.slot.set (s.widx + 1#4).toFin raw
        fill := if s.fill < 16#5 then s.fill + 1#5 else s.fill }) ∨
    (s.fill ≠ 0#5 ∧ raw = s.slotAt s.widx ∧ s.savePps raw = s) := by
  unfold State.savePps
  by_cases h : s.fill = 0#5 ∨ raw ≠ s.slotAt s.widx
  · exact .inl ⟨h, by rw [if_pos h]⟩
  · refine .inr ⟨fun hf => h (.inl hf), ?_, by rw [if_neg h]⟩
    by_contra hr
    exact h (.inr hr)

/-! ## Framing, fetching, popping -/

/-- A complete record under any table: its sync word, its length inside `size`, where its two length fields were
read, and that they were read below `size`. -/
theorem frameAt_eq_complete {l : RecordLayout} {rd : Nat → Byte} {size c n m : Nat} :
    frameAt l rd size c = .complete n m ↔
      (fieldEnd l c 0 0 .sync0 ≤ size ∧ fieldEnd l c 0 0 .sync1 ≤ size) ∧ syncAt l rd c = true ∧
      (fieldEnd l c 0 0 .payloadLen ≤ size ∧ n = fieldNat l rd c 0 0 .payloadLen) ∧
      (fieldEnd l c n 0 .numMetrics ≤ size ∧ m = fieldNat l rd c n 0 .numMetrics) ∧
      c + recLen n m ≤ size := by
  unfold frameAt
  split
  · rename_i h
    simp only [reduceCtorEq, false_iff]
    omega
  split
  · rename_i h
    simp only [Bool.not_eq_true'] at h
    simp [h]
  split
  · rename_i h
    simp only [reduceCtorEq, false_iff]
    omega
  rename_i h1 h2 h3
  simp only [Bool.not_eq_true', Bool.not_eq_false] at h2
  dsimp only
  split
  · rename_i h
    simp only [reduceCtorEq, false_iff]
    rintro ⟨_, _, ⟨_, rfl⟩, ⟨_, _⟩, _⟩
    omega
  split
  · rename_i h
    simp only [reduceCtorEq, false_iff]
    rintro ⟨_, _, ⟨_, rfl⟩, ⟨_, rfl⟩, _⟩
    omega
  · rename_i h4 h5
    simp only [Frame.complete.injEq]
    constructor
    · rintro ⟨rfl, rfl⟩
      exact ⟨by omega, h2, ⟨by omega, rfl⟩, ⟨by omega, rfl⟩, by omega⟩
    · rintro ⟨_, _, ⟨_, rfl⟩, ⟨_, rfl⟩, _⟩
      exact ⟨rfl, rfl⟩

/-- A field of the spec's table that is one whole byte, read: that byte. -/
theorem fieldNat_byte {rd : Nat → Byte} {c n m : Nat} {f : Field} (hb : (recordLayout f).bit = 0)
    (hw : (recordLayout f).width = 8) :
    fieldNat recordLayout rd c n m f = (rd (fieldOffset recordLayout c n m f)).toNat := by
  have := (rd (fieldOffset recordLayout c n m f)).isLt
  simp only [fieldNat, fieldBytes, hb, hw, leNat, Nat.shiftRight_zero]
  omega

/-- What stands at `c` under the spec's table, in the offsets of R174, R175 and R178. -/
theorem frameAt_recordLayout {rd : Nat → Byte} {size c n m : Nat} (hn : n = (rd (c + 2)).toNat)
    (hm : m = (rd (c + 9 + n + 12)).toNat) :
    frameAt recordLayout rd size c =
      if size < c + 2 ∨ ¬ (rd c = sync0 ∧ rd (c + 1) = sync1) then .noSync
      else if size < c + 3 ∨ size < c + 9 + n + 13 ∨ size < c + (9 + n + 14 + 2 * m) then .incomplete
      else .complete n m := by
  have hs : syncAt recordLayout rd c = decide (rd c = sync0 ∧ rd (c + 1) = sync1) := by
    simp only [syncAt, fieldBits, fieldNat_byte (f := .sync0) rfl rfl, fieldNat_byte (f := .sync1) rfl rfl,
      BitVec.ofNat_toNat, BitVec.setWidth_eq, Bool.decide_and]
    rfl
  have hp : fieldNat recordLayout rd c 0 0 .payloadLen = n := (fieldNat_byte rfl rfl).trans hn.symm
  have hk : fieldNat recordLayout rd c n 0 .numMetrics = m := (fieldNat_byte rfl rfl).trans hm.symm
  have e0 : fieldEnd recordLayout c 0 0 .sync0 = c + 1 := rfl
  have e1 : fieldEnd recordLayout c 0 0 .sync1 = c + 2 := rfl
  have e2 : fieldEnd recordLayout c 0 0 .payloadLen = c + 3 := rfl
  have e3 : fieldEnd recordLayout c n 0 .numMetrics = c + 9 + n + 13 := rfl
  have er : c + recLen n m = c + (9 + n + 14 + 2 * m) := rfl
  unfold frameAt
  simp only [hs, hp, hk, e0, e1, e2, e3, er]
  split_ifs <;> simp_all <;> omega
/-- A complete record under the spec's table (R92, R93): every read of its framing lies inside its length. -/
theorem frameAt_recordLayout_eq_complete {rd : Nat → Byte} {size c n m : Nat} :
    frameAt recordLayout rd size c = .complete n m ↔
      (rd c = sync0 ∧ rd (c + 1) = sync1) ∧ n = (rd (c + 2)).toNat ∧
        m = (rd (c + 9 + n + 12)).toNat ∧ c + (9 + n + 14 + 2 * m) ≤ size := by
  rw [frameAt_recordLayout rfl rfl]
  split_ifs with h1 h2
  · simp only [false_iff]
    rintro ⟨hs, _⟩
    rcases h1 with h1 | h1
    · omega
    · exact h1 hs
  · simp only [false_iff]
    rintro ⟨_, rfl, rfl, _⟩
    omega
  · push Not at h1
    simp only [Frame.complete.injEq]
    constructor
    · rintro ⟨rfl, rfl⟩
      exact ⟨h1.2, rfl, rfl, by omega⟩
    · rintro ⟨_, rfl, rfl, _⟩
      exact ⟨rfl, rfl⟩

/-- The checksum row of the spec's table is the record's last byte (R92). -/
theorem recordLayout_checksum (c n m : Nat) :
    fieldOffset recordLayout c n m .checksum = c + recLen n m - 1 := by
  simp only [fieldOffset, recordLayout, recLen, headLen, tailLen, metricBytes]
  omega

/-- The offset of the first sync word: one stands there and none before it (R173). -/
theorem findSync_eq_some {d : List Byte} : ∀ {k : Nat}, findSync d = some k ↔
    (d[k]? = some sync0 ∧ d[k + 1]? = some sync1) ∧
      ∀ j, j < k → ¬ (d[j]? = some sync0 ∧ d[j + 1]? = some sync1) := by
  induction d with
  | nil => intro k; simp [findSync]
  | cons a r ih =>
    cases r with
    | nil => intro k; cases k <;> simp [findSync]
    | cons b r =>
      intro k
      unfold findSync
      by_cases h : a = sync0 ∧ b = sync1
      · rw [if_pos h]
        cases k with
        | zero => simp [h.1, h.2]
        | succ k =>
          simp only [Option.some.injEq, reduceCtorEq, false_iff, not_and]
          exact fun _ hj => hj 0 (by omega) (by simp [h.1]) (by simp [h.2])
      · rw [if_neg h]
        cases k with
        | zero =>
          simp only [Option.map_eq_some_iff, Nat.add_eq_zero_iff, one_ne_zero, and_false, exists_false,
            false_iff]
          rintro ⟨h0, -⟩
          exact h (by simpa using h0)
        | succ k =>
          simp only [Option.map_eq_some_iff, Nat.add_right_cancel_iff, exists_eq_right, ih,
            List.getElem?_cons_succ]
          constructor
          · rintro ⟨h1, h2⟩
            refine ⟨h1, fun j hj => ?_⟩
            cases j with
            | zero => simpa using fun h1 h2 => h ⟨h1, h2⟩
            | succ j => exact h2 j (by omega)
          · rintro ⟨h1, h2⟩
            exact ⟨h1, fun j hj => h2 (j + 1) (by omega)⟩

/-- The four ways BUF_FETCH can end, on operands of the length announced. -/
theorem fetch_cases (l : RecordLayout) (s : State) (data : List Byte) :
    (data.length < minLen ∧ s.fetch l data = (s.clearBuffer, .ok 0#8)) ∨
    (minLen ≤ data.length ∧ findSync data = none ∧
      s.fetch l data = (s.clearBuffer, .error .malformedBuffer)) ∨
    (∃ k, minLen ≤ data.length ∧ findSync data = some k ∧
      walk l (s.clearBuffer.load (data.drop k)).byte (data.length - k) (data.length - k) 0 0 = none ∧
      s.fetch l data = ((s.clearBuffer.load (data.drop k)).clearBuffer, .error .malformedBuffer)) ∨
    (∃ k n, minLen ≤ data.length ∧ findSync data = some k ∧
      walk l (s.clearBuffer.load (data.drop k)).byte (data.length - k) (data.length - k) 0 0 = some n ∧
      s.fetch l data = ({ s.clearBuffer.load (data.drop k) with packetCount := BitVec.ofNat 8 n },
        .ok (BitVec.ofNat 8 n))) := by
  unfold State.fetch
  by_cases hl : data.length < minLen
  · exact .inl ⟨hl, by simp only [hl, if_true]⟩
  have hl' : minLen ≤ data.length := by omega
  cases hk : findSync data with
  | none => exact .inr (.inl ⟨hl', rfl, by simp only [hl, if_false]⟩)
  | some k =>
    cases hw : walk l (s.clearBuffer.load (data.drop k)).byte (data.length - k) (data.length - k) 0 0 with
    | none => exact .inr (.inr (.inl ⟨k, hl', rfl, hw, by simp only [hl, if_false, hw]⟩))
    | some n => exact .inr (.inr (.inr ⟨k, n, hl', rfl, hw, by simp only [hl, if_false, hw]⟩))

/-- What a successful parse has found at the cursor. -/
theorem parse_eq_ok {l : RecordLayout} {s : State} {p : DecodedPacket} {r : Nat} :
    s.parse l = .ok (p, r) ↔
      ∃ n m, frameAt l s.byte s.size.toNat s.cursor.toNat = .complete n m ∧ r = recLen n m ∧
        checksumOk l s.byte s.cursor.toNat n m = true ∧ p = extract l s.byte s.cursor.toNat n m ∧
        metadataLegal p = true := by
  unfold State.parse
  dsimp only
  cases hf : frameAt l s.byte s.size.toNat s.cursor.toNat with
  | noSync => simp
  | incomplete => simp
  | complete n m =>
    by_cases hc : checksumOk l s.byte s.cursor.toNat n m = true
    · by_cases hm : metadataLegal (extract l s.byte s.cursor.toNat n m) = true
      · simp only [hc, hm, if_true, Except.ok.injEq, Prod.mk.injEq, Frame.complete.injEq]
        constructor
        · rintro ⟨rfl, rfl⟩
          exact ⟨n, m, ⟨rfl, rfl⟩, rfl, hc, rfl, hm⟩
        · rintro ⟨n', m', ⟨rfl, rfl⟩, rfl, _, rfl, _⟩
          exact ⟨rfl, rfl⟩
      · simp only [hc, hm, if_true, Bool.false_eq_true, if_false, reduceCtorEq, Frame.complete.injEq,
          false_iff, not_exists, not_and]
        rintro n' m' ⟨rfl, rfl⟩ rfl _ rfl
        exact hm
    · simp only [hc, Bool.false_eq_true, if_false, reduceCtorEq, Frame.complete.injEq, false_iff,
        not_exists, not_and]
      rintro n' m' ⟨rfl, rfl⟩ rfl hc'
      exact absurd hc' hc

/-- A successful pop stays inside `size`. -/
theorem parse_ok_le {l : RecordLayout} {s : State} {p : DecodedPacket} {r : Nat} (h : s.parse l = .ok (p, r)) :
    s.cursor.toNat + r ≤ s.size.toNat ∧ minLen ≤ r := by
  obtain ⟨n, m, hf, rfl, -⟩ := parse_eq_ok.1 h
  refine ⟨(frameAt_eq_complete.1 hf).2.2.2.2, ?_⟩
  simp only [recLen, minLen, headLen, tailLen, metricBytes]
  omega

/-! ## The walk -/

/-- Counting from another start shifts the count. -/
theorem walk_count (l : RecordLayout) (rd : Nat → Byte) (size : Nat) : ∀ (fuel idx count : Nat),
    walk l rd size fuel idx count = (walk l rd size fuel idx 0).map (· + count) := by
  intro fuel
  induction fuel with
  | zero => intro idx count; simp [walk]
  | succ fuel ih =>
    intro idx count
    simp only [walk]
    split
    · cases frameAt l rd size idx with
      | noSync => rfl
      | incomplete => simp
      | complete n m =>
        dsimp only
        rw [ih _ (count + 1), ih _ (0 + 1), Option.map_map]
        congr 1
        funext x
        simp only [Function.comp]
        omega
    · simp

/-- A fuel of at least what is left of the buffer is as good as any other. -/
theorem walk_fuel (l : RecordLayout) (rd : Nat → Byte) (size : Nat) : ∀ (fuel fuel' idx count : Nat),
    size ≤ fuel + idx → size ≤ fuel' + idx → walk l rd size fuel idx count = walk l rd size fuel' idx count := by
  intro fuel
  induction fuel with
  | zero =>
    intro fuel' idx count h _
    cases fuel' with
    | zero => rfl
    | succ f => simp [walk, show ¬ idx < size by omega]
  | succ fuel ih =>
    intro fuel' idx count h h'
    cases fuel' with
    | zero => simp [walk, show ¬ idx < size by omega]
    | succ f =>
      simp only [walk]
      split
      · cases frameAt l rd size idx with
        | noSync => rfl
        | incomplete => rfl
        | complete n m =>
          refine ih _ _ _ ?_ ?_ <;> simp only [recLen, headLen, tailLen, metricBytes] <;> omega
      · rfl

/-- Every counted record takes at least 23 bytes. -/
theorem walk_bound (l : RecordLayout) (rd : Nat → Byte) (size : Nat) : ∀ (fuel idx count n : Nat), idx ≤ size →
    walk l rd size fuel idx count = some n → idx + minLen * n ≤ size + minLen * count := by
  intro fuel
  induction fuel with
  | zero => intro idx count n hi h; simp [walk] at h; subst h; omega
  | succ fuel ih =>
    intro idx count n hi h
    simp only [walk] at h
    split at h
    · cases hf : frameAt l rd size idx with
      | noSync => simp [hf] at h
      | incomplete => simp [hf] at h; subst h; omega
      | complete a b =>
        rw [hf] at h
        have hle := (frameAt_eq_complete.1 hf).2.2.2.2
        have := ih _ _ _ hle h
        simp only [minLen, recLen, headLen, tailLen, metricBytes] at *
        omega
    · simp at h; subst h; omega

/-- The count after a successful pop: one less, not below 0. -/
theorem popped_packetCount_toNat (s : State) (r : Nat) :
    (s.popped r).packetCount.toNat = s.packetCount.toNat - 1 := by
  simp only [State.popped]
  by_cases h : s.packetCount = 0#8
  · simp [h]
  · have hne : s.packetCount.toNat ≠ 0 := fun h' => h (BitVec.eq_of_toNat_eq (by simpa using h'))
    have := s.packetCount.isLt
    simp only [h, if_false, BitVec.toNat_sub, BitVec.toNat_ofNat]
    omega

/-- The bytes below `size` after a load are the bytes loaded. -/
theorem load_byte {s : State} {d : List Byte} (hd : d.length ≤ bufCap) (hw : memWf s.buf = true) (a : Nat) :
    (s.load d).byte a = (d[a]?).getD (s.byte a) := by
  have h := memRead_memWriteAll (a := 0) (by omega : 0 + d.length ≤ bufCap) hw a
  simpa [State.byte, State.load] using h

/-! ## The fine timestamp -/

/-- The slot the scan finds: the first that holds an edge within a second (R229). -/
theorem findEdge_eq_some {s : State} {aligned : Word} {i : Fin 16} :
    s.findEdge aligned = some i ↔
      sub32 aligned (s.slot.get i) < tickHz ∧ ∀ j, j < i → tickHz ≤ sub32 aligned (s.slot.get j) := by
  unfold State.findEdge
  rw [List.find?_eq_some_iff_getElem]
  simp only [decide_eq_true_eq, List.getElem_finRange, List.length_finRange, Bool.not_eq_true',
    decide_eq_false_iff_not, not_lt]
  constructor
  · rintro ⟨h, k, hk, rfl, hj⟩
    exact ⟨h, fun j hjk => by simpa using hj j.val (by simpa [Fin.lt_def] using hjk)⟩
  · rintro ⟨h, hj⟩
    exact ⟨h, i.val, i.isLt, by simp, fun j hji => by
      simpa using hj ⟨j, by omega⟩ (by simpa [Fin.lt_def] using hji)⟩

/-- The scan finds no slot iff every edge is a second or more away (R229). -/
theorem findEdge_eq_none {s : State} {aligned : Word} :
    s.findEdge aligned = none ↔ ∀ i, tickHz ≤ sub32 aligned (s.slot.get i) := by
  simp [State.findEdge]

/-- The two ways step 4 finds its reference: the live value, or the first slot within a second. -/
theorem reference_eq_ok {s : State} {aligned live ref : Word} {j : BitVec 4} :
    s.reference aligned live = .ok (ref, j) ↔
      (sub32 aligned live ≤ tickHz ∧ ref = live ∧ j = s.widx) ∨
      (tickHz < sub32 aligned live ∧ ∃ i, s.findEdge aligned = some i ∧ ref = s.slot.get i ∧
        j = BitVec.ofFin i) := by
  unfold State.reference
  by_cases h : tickHz < sub32 aligned live
  · rw [if_pos h]
    cases he : s.findEdge aligned with
    | none => simp [h]
    | some i =>
      simp only [Except.ok.injEq, Prod.mk.injEq, Option.some.injEq, exists_eq_left', h, true_and]
      constructor
      · rintro ⟨rfl, rfl⟩
        exact .inr ⟨rfl, rfl⟩
      · rintro (⟨hle, -⟩ | ⟨rfl, rfl⟩)
        · omega
        · exact ⟨rfl, rfl⟩
  · rw [if_neg h]
    simp only [Except.ok.injEq, Prod.mk.injEq, h, false_and, or_false]
    constructor
    · rintro ⟨rfl, rfl⟩
      exact ⟨by omega, rfl, rfl⟩
    · rintro ⟨-, rfl, rfl⟩
      exact ⟨rfl, rfl⟩

/-- A fine timestamp is the floor of `t`, which lies in `[0, 10^9)`. -/
theorem fineResult_eq_ok {t : ℚ} {v : Word} :
    fineResult t = .ok v ↔ (0 ≤ t ∧ t < ftimeLimit) ∧ v = BitVec.ofNat 32 ⌊t⌋.toNat := by
  unfold fineResult
  by_cases h : t < 0 ∨ (ftimeLimit : ℚ) ≤ t
  · rw [if_pos h]
    simp only [reduceCtorEq, false_iff, not_and]
    rintro ⟨h0, h1⟩
    rcases h with h | h
    · exact absurd h (not_lt.2 h0)
    · exact absurd h (not_le.2 h1)
  · rw [if_neg h]
    push Not at h
    simp only [Except.ok.injEq, h.1, h.2, and_self, true_and]
    exact eq_comm

/-! ## Assembling -/

/-- The ways PKT_ASM can end. -/
theorem assemble_cases {c : Config} {s : State} {live : Word}
    {o : Host.Outcome (State × Except Failure NormalizedRxRecord) Fault Refusal}
    (h : s.assemble c live = o) :
    (bufCap < s.size.toNat ∧ o = .fault .bufferAddress) ∨
    (s.size.toNat ≤ bufCap ∧
      ((∃ f, s.parse c.layout = .error f ∧ o = .next (s.clearBuffer, .error f)) ∨
       (∃ p r, s.parse c.layout = .ok (p, r) ∧ ¬ p.channel.toNat < 10 ∧
          o = .next ((s.popped r).clearBuffer, .error .outOfRangeMetadata)) ∨
       (∃ p r, ∃ hch : p.channel.toNat < 10, s.parse c.layout = .ok (p, r) ∧
          c.centreHz ⟨p.channel.toNat, hch⟩ = none ∧ o = .refused .configuration) ∨
       (∃ p r freq, ∃ hch : p.channel.toNat < 10, s.parse c.layout = .ok (p, r) ∧
          c.centreHz ⟨p.channel.toNat, hch⟩ = some freq ∧
          crc16Rejects c (c.ifMod.get ⟨p.channel.toNat, hch⟩) p = true ∧
          o = .next (s.popped r, .error .crc16Mismatch)) ∨
       (∃ p r freq, ∃ hch : p.channel.toNat < 10, s.parse c.layout = .ok (p, r) ∧
          c.centreHz ⟨p.channel.toNat, hch⟩ = some freq ∧
          crc16Rejects c (c.ifMod.get ⟨p.channel.toNat, hch⟩) p = false ∧
          o = .next (s.popped r,
            .ok (buildRecord c (s.popped r) ⟨p.channel.toNat, hch⟩ freq p live))))) := by
  subst h
  by_cases hb : s.size.toNat ≤ bufCap
  · refine .inr ⟨hb, ?_⟩
    rw [State.assemble, withBuffer_of_le hb]
    cases hp : s.parse c.layout with
    | error f => exact .inl ⟨f, rfl, rfl⟩
    | ok pr =>
      obtain ⟨p, r⟩ := pr
      dsimp only [State.assemblePacket]
      by_cases hch : p.channel.toNat < 10
      · simp only [hch, dif_pos]
        cases hf : c.centreHz ⟨p.channel.toNat, hch⟩ with
        | none => exact .inr (.inr (.inl ⟨p, r, hch, rfl, hf, rfl⟩))
        | some freq =>
          cases hx : crc16Rejects c (c.ifMod.get ⟨p.channel.toNat, hch⟩) p with
          | true => exact .inr (.inr (.inr (.inl ⟨p, r, freq, hch, rfl, hf, hx, by simp⟩)))
          | false => exact .inr (.inr (.inr (.inr ⟨p, r, freq, hch, rfl, hf, hx, by simp⟩)))
      · exact .inr (.inl ⟨p, r, rfl, hch, by simp [hch]⟩)
  · exact .inl ⟨by omega, by simp [State.assemble, State.withBuffer, hb]⟩

/-- What every PKT_ASM keeps, RECEIVE's loop keeps. -/
theorem receiveLoop_keeps {c : Config} {P : State → Prop}
    (hP : ∀ s t live e, P s → s.assemble c live = .next (t, e) → P t) :
    ∀ {lives : List Word} {s t : State} {out o : List NormalizedRxRecord},
      State.receiveLoop c lives s out = .next (t, o) → P s → P t := by
  intro lives
  induction lives with
  | nil =>
    intro s t out o h hs
    simp only [State.receiveLoop, Host.Outcome.next.injEq, Prod.mk.injEq] at h
    exact h.1 ▸ hs
  | cons live lives ih =>
    intro s t out o h hs
    simp only [State.receiveLoop] at h
    split at h
    · cases h
      exact hs
    · split at h
      · rename_i ha
        exact ih h (hP _ _ _ _ hs ha)
      · rename_i ha
        exact ih h (hP _ _ _ _ hs ha)
      · cases h
      · cases h

theorem drawLives_length (s : State) (lives : List Word) :
    (s.drawLives lives).length = s.packetCount.toNat := by
  simp [State.drawLives]

/-- The machine's configuration gives every channel a centre frequency (U10). -/
theorem board_legal : Config.board.Legal := Config.boardLegal.legal

@[simp] theorem board_layout : Config.board.layout = recordLayout := rfl

@[simp] theorem board_pairLayout : Config.board.pairLayout = counterPairLayout := rfl

/-- A centre frequency is the sum of R244, and in `1 .. 2^32 − 1`. -/
theorem centreHz_eq_some {c : Config} {ch : Fin 10} {f : Nat} :
    c.centreHz ch = some f ↔
      ∃ rf, c.rfFreq[c.ifRf.get ch]? = some rf ∧ (f : ℤ) = rf.toNat + (c.ifFreq.get ch).toInt ∧
        0 < f ∧ f < 2 ^ 32 := by
  unfold Config.centreHz Config.ifFreqHz
  cases c.rfFreq[c.ifRf.get ch]? with
  | none => simp
  | some rf =>
    dsimp only
    split
    · simp only [Option.some.injEq, exists_eq_left']
      omega
    · simp only [reduceCtorEq, Option.some.injEq, exists_eq_left', false_iff]
      omega

end Sys2Proof.Machine
end

