-- ==== Sys2Proof/Laws/PerInstr.lean ====
section
/-! SUPPORT. What holds of every operation as syntax, one lemma per constructor: its request carries the
command code of its row of R110's table. -/

namespace Sys2Proof.Laws.EncodeCode

/-- The command code of an operation's request selects that operation (R110). -/
def Statement (i : Instr) : Prop := opcodeOf (encode i).code = some i.opcode

theorem csum8 (d : List Byte) : Statement (.csum8 d) :=
  Machine.opcodeOf_code _

theorem crc16 (d : List Byte) : Statement (.crc16 d) :=
  Machine.opcodeOf_code _

theorem tsUpdate (p i : Raw27) : Statement (.tsUpdate p i) :=
  Machine.opcodeOf_code _

theorem tsExpand (dom : DomainName) (raw : Raw27) : Statement (.tsExpand dom raw) :=
  Machine.opcodeOf_code _

theorem tsPktexp (raw : Raw27) : Statement (.tsPktexp raw) :=
  Machine.opcodeOf_code _

theorem cntSample (pair : Vector Byte 8) : Statement (.cntSample pair) :=
  Machine.opcodeOf_code _

theorem ppsSave (raw : Word) : Statement (.ppsSave raw) :=
  Machine.opcodeOf_code _

theorem bufClear : Statement .bufClear :=
  Machine.opcodeOf_code _

theorem bufFetch (len1 len2 : Half) (data : List Byte) : Statement (.bufFetch len1 len2 data) :=
  Machine.opcodeOf_code _

theorem bufPop : Statement .bufPop :=
  Machine.opcodeOf_code _

theorem toa (bw : Bandwidth) (sf : Nat) (cr : BitVec 3) (nPre : Nat) (headerEn crcEn : Bool) (size : Byte) :
    Statement (.toa bw sf cr nPre headerEn crcEn size) :=
  Machine.opcodeOf_code _

theorem corrLegacy (bw : Bandwidth) (sf : Nat) (cr : BitVec 3) (crcEn : Bool) (size : Byte) :
    Statement (.corrLegacy bw sf cr crcEn size) :=
  Machine.opcodeOf_code _

theorem corrPrec (bw : Bandwidth) (sf : Nat) (cr : BitVec 3) (crcEn : Bool) (size : Byte) :
    Statement (.corrPrec bw sf cr crcEn size) :=
  Machine.opcodeOf_code _

theorem notch (f : Word) : Statement (.notch f) :=
  Machine.opcodeOf_code _

theorem ftimeCalc (metrics : List Byte) (m : Byte) (ts : Word) (sf : Nat) (f : Word) (fe : ℚ) (live : Word) :
    Statement (.ftimeCalc metrics m ts sf f fe live) :=
  Machine.opcodeOf_code _

theorem pktAsm (live : Word) : Statement (.pktAsm live) :=
  Machine.opcodeOf_code _

theorem receive (len1 len2 : Half) (data : List Byte) (pair : Vector Byte 8) (lives : List Word) :
    Statement (.receive len1 len2 data pair lives) :=
  Machine.opcodeOf_code _

end Sys2Proof.Laws.EncodeCode
end

