-- ==== Sys2Proof/Machine/HostSide.lean ====
section
/-! DEFINITION. The computations the spec puts on the host's side of the operands: the length it reads from
the FIFO (R316), the counter pair it settles on (R317), and the byte form of the counters (R105, R106). No
operation of the engine uses them. -/

namespace Sys2Proof.Machine

/-- The number of bytes the host reads from the FIFO after its two reads of the byte count (R316). -/
def hostFifoLength (len1 len2 : Half) : Nat := max len1.toNat len2.toNat

/-- The counter pair the host passes to the engine (R317): the second read, or the third where the most
significant bytes of the first two differ. -/
def hostSettlePair (l : PairLayout) (read1 read2 read3 : Vector Byte 8) : Vector Byte 8 :=
  if read1.get l.pps[0] = read2.get l.pps[0] ∧ read1.get l.inst[0] = read2.get l.inst[0] then read2
  else read3

/-- The four bytes of a raw32 counter, most significant first (R64). -/
def bytesOfWord (w : Word) : List Byte :=
  [(w >>> 24).setWidth 8, (w >>> 16).setWidth 8, (w >>> 8).setWidth 8, w.setWidth 8]

/-- The counter pair of two counters (R105). -/
def pairOf (pps inst : Word) : Vector Byte 8 :=
  ⟨(bytesOfWord pps ++ bytesOfWord inst).toArray, by simp [bytesOfWord]⟩

end Sys2Proof.Machine
end

