-- ==== Sys2Proof/Tests/Slice0.lean ====
section
/-! SUPPORT. Tests of the model: ill-formed operations refused, every command code decoded, the spec's own
vectors (95_test_vectors.md, cited by section), and for every statement with hypotheses a case that meets
them. -/

namespace Sys2Proof.Tests

-- One theorem after the other: many kernel evaluations at once exhaust the threads.
set_option Elab.async false

open Sys2Proof Sys2Proof.Machine

/-! ## Helpers -/

/-- The `len` bytes of a number, most significant first. -/
def hex (len n : Nat) : List Byte :=
  (List.range len).map fun i => BitVec.ofNat 8 (n / 256 ^ (len - 1 - i))

/-- The records of section 0. -/
def r1 : List Byte := hex 28 0xA5C00500730000000001020304050000000000000000100034650095
def r2 : List Byte := hex 27 0xA5C00403950300FF0FDEADBEEF0028605A00004000200080EC00F8
def r0 : List Byte := hex 23 0xA5C00000730000000000000000000000000000000000D8
def rb : List Byte := hex 26 0xA5C003017300000000090909000000000000000000003412003D
def r4 : List Byte := hex 32 0xA5C00502730200000048656C6C6F1000000000008E641C1D96810202FF03FE2B

/-- The record of section 2.7 without CRC: under every configuration its payload is compared with nothing. -/
def rn : List Byte := hex 26 0xA5C0030072000000000102030000000000000000100034120036

/-- A record of section 2.4 that a pop rejects for its modem id 18. -/
def rm : List Byte := hex 26 0xA5C0030073120000000102030000000000000000100022120037

/-- The next state of an outcome. -/
def nextOf {α : Type} : Host.Outcome α Fault Refusal → Option α
  | .next s => some s
  | _ => none

/-- The refusal of an outcome. -/
def refusalOf {α : Type} : Host.Outcome α Fault Refusal → Option Refusal
  | .refused r => some r
  | _ => none

/-- The rejection of a request. -/
def rejection (r : Request) : Option Reject :=
  match decode r with
  | .error e => some e
  | .ok _ => none

/-- The state after an operation, the state itself where there is none. -/
def after (o : State → Host.Outcome State Fault Refusal) (s : State) : State := (nextOf (o s)).getD s

/-- The state with a byte string fetched into the buffer. -/
def fetched (d : List Byte) (s : State) : State :=
  after (execBufFetch (BitVec.ofNat 16 d.length) (BitVec.ofNat 16 d.length) d) s

/-- The ring after `n` saves of `1000 + 32000000·k` (section 2.3). -/
def ring (n : Nat) : State :=
  (List.range n).foldl (fun s k => after (execPpsSave (BitVec.ofNat 32 (1000 + 32000000 * k))) s) State.reset

/-- The counter pair of program P1. -/
def pairP1 : Vector Byte 8 := #v[0x01#8, 0xE8#8, 0x48#8, 0#8, 0#8, 0x30#8, 0#8, 0#8]

/-- An outcome that has a next state is that state. -/
theorem next_of {α : Type} {o : Host.Outcome α Fault Refusal} (h : (nextOf o).isSome = true) :
    ∃ t, o = .next t := by
  cases o <;> simp_all [nextOf]

/-- The record that an outcome's next state hands over. -/
def recordOf (o : Host.Outcome State Fault Refusal) : Option NormalizedRxRecord :=
  match nextOf o with
  | some t => match t.output with
    | some (.record r) => some r
    | _ => none
  | none => none

/-- An outcome that hands over a record has a next state that does. -/
theorem record_of {o : Host.Outcome State Fault Refusal} (h : (recordOf o).isSome = true) :
    ∃ t r, o = .next t ∧ t.output = some (.record r) := by
  unfold recordOf at h
  cases o with
  | next s => cases ho : s.output with
    | none => simp [nextOf, ho] at h
    | some r => cases r <;> simp_all [nextOf]
  | fault f => simp [nextOf] at h
  | refused r => simp [nextOf] at h

/-- Both are there. -/
theorem parse_of {s : State} {ch : Nat}
    (h : (match s.parse recordLayout with | .ok (p, _) => p.channel.toNat == ch | .error _ => false) = true) :
    ∃ p r, s.parse recordLayout = .ok (p, r) ∧ p.channel.toNat = ch := by
  cases hp : s.parse recordLayout with
  | error f => simp [hp] at h
  | ok pr => exact ⟨pr.1, pr.2, rfl, by simpa [hp] using h⟩

/-! ## Ill-formed operations are refused -/

theorem test_check_crc16 :
    (Instr.crc16 (List.replicate 256 0#8)).check = some (.outsideType .crc16) := by decide +kernel

theorem test_check_bufFetch_length : (Instr.bufFetch 1#16 2#16 [0#8]).check = some .fetchOperands := by decide

theorem test_check_bufFetch_cap :
    (Instr.bufFetch 4097#16 0#16 (List.replicate 4097 0#8)).check = some .fetchOperands := by decide +kernel

theorem test_check_toa :
    (Instr.toa .bw125 4 1#3 8 true true 5#8).check = some .correctionOperands := by decide

theorem test_check_corrLegacy :
    (Instr.corrLegacy .bw125 13 1#3 true 5#8).check = some .correctionOperands := by decide

theorem test_check_corrPrec :
    (Instr.corrPrec .bw500 13 1#3 true 5#8).check = some .correctionOperands := by decide

theorem test_check_ftimeCalc_none :
    (Instr.ftimeCalc [] 0#8 0#32 7 0#32 0 0#32).check = some .fineOperands := by decide

theorem test_check_ftimeCalc_length :
    (Instr.ftimeCalc [1#8] 1#8 0#32 7 0#32 0 0#32).check = some .fineOperands := by decide

theorem test_check_ftimeCalc_sf :
    (Instr.ftimeCalc [1#8, 2#8] 1#8 0#32 13 0#32 0 0#32).check = some .fineOperands := by decide

theorem test_check_receive : (Instr.receive 0#16 3#16 [] pairP1 []).check = some .fetchOperands := by decide

theorem test_reject_code : rejection ⟨0x00#8, []⟩ = some (.unknownCommand 0x00#8) := by decide

theorem test_reject_kinds : rejection ⟨0x30#8, [.num 0]⟩ = some (.operandKinds .bufClear) := by decide

theorem test_reject_range : rejection ⟨0x20#8, [.num (2 ^ 32)]⟩ = some (.outsideType .ppsSave) := by decide

/-- U2. -/
theorem test_reject_counter : rejection ⟨0x12#8, [.num (2 ^ 27)]⟩ = some .counterRange := by decide

theorem test_reject_pair : rejection ⟨0x13#8, [.bytes [0#8]]⟩ = some (.outsideType .cntSample) := by decide

/-! ## Every command code, bit by bit from R110's table -/

theorem test_decode_csum8 :
    (decode ⟨0b00000001#8, [.bytes [0xFF#8, 0x01#8]]⟩).toOption = some (.csum8 [0xFF#8, 0x01#8]) := by decide +kernel

theorem test_decode_crc16 :
    (decode ⟨0b00000010#8, [.bytes [0x01#8]]⟩).toOption = some (.crc16 [0x01#8]) := by decide +kernel

theorem test_decode_tsUpdate :
    (decode ⟨0b00010000#8, [.num 99, .num 8]⟩).toOption = some (.tsUpdate 99#27 8#27) := by decide +kernel

theorem test_decode_tsExpand :
    (decode ⟨0b00010001#8, [.dom .pps, .num 5]⟩).toOption = some (.tsExpand .pps 5#27) := by decide +kernel

theorem test_decode_tsPktexp :
    (decode ⟨0b00010010#8, [.num 134217727]⟩).toOption = some (.tsPktexp 134217727#27) := by decide +kernel

theorem test_decode_cntSample :
    (decode ⟨0b00010011#8,
      [.bytes [0x01#8, 0xE8#8, 0x48#8, 0#8, 0#8, 0x30#8, 0#8, 0#8]]⟩).toOption
    = some (.cntSample pairP1) := by decide +kernel

theorem test_decode_ppsSave :
    (decode ⟨0b00100000#8, [.num 4294967295]⟩).toOption = some (.ppsSave 0xFFFFFFFF#32) := by decide +kernel

theorem test_decode_bufClear : (decode ⟨0b00110000#8, []⟩).toOption = some (.bufClear) := by decide +kernel

theorem test_decode_bufFetch :
    (decode ⟨0b00110001#8, [.num 1, .num 2, .bytes [1#8, 2#8]]⟩).toOption = some (.bufFetch 1#16 2#16 [1#8, 2#8]) := by decide +kernel

theorem test_decode_bufPop : (decode ⟨0b00110010#8, []⟩).toOption = some (.bufPop) := by decide +kernel

theorem test_decode_toa :
    (decode ⟨0b01000000#8,
      [.bw .bw250, .num 6, .num 2, .num 8, .bit false, .bit true, .num 255]⟩).toOption
    = some (.toa .bw250 6 2#3 8 false true 255#8) := by decide +kernel

theorem test_decode_corrLegacy :
    (decode ⟨0b01000001#8, [.bw .bw125, .num 7, .num 1, .bit true, .num 5]⟩).toOption = some (.corrLegacy .bw125 7 1#3 true 5#8) := by decide +kernel

theorem test_decode_corrPrec :
    (decode ⟨0b01000010#8, [.bw .bw500, .num 12, .num 4, .bit true, .num 255]⟩).toOption = some (.corrPrec .bw500 12 4#3 true 255#8) := by decide +kernel

theorem test_decode_notch :
    (decode ⟨0b01010000#8, [.int (-50000)]⟩).toOption = some (.notch (BitVec.ofInt 32 (-50000))) := by decide +kernel

theorem test_decode_ftimeCalc :
    (decode ⟨0b01010001#8,
      [.ints [2, -1], .num 1, .num 7, .num 7, .int 0, .rat (1 / 2), .num 9]⟩).toOption
    = some (.ftimeCalc [2#8, 255#8] 1#8 7#32 7 0#32 (1 / 2) 9#32) := by decide +kernel

theorem test_decode_pktAsm :
    (decode ⟨0b01100000#8, [.num 480001000]⟩).toOption = some (.pktAsm 480001000#32) := by decide +kernel

theorem test_decode_receive :
    (decode ⟨0b01100001#8,
      [.num 0, .num 0, .bytes [], .bytes [0x01#8, 0xE8#8, 0x48#8, 0#8, 0#8, 0x30#8, 0#8, 0#8],
      .nums [7]]⟩).toOption
    = some (.receive 0#16 0#16 [] pairP1 [7#32]) := by decide +kernel

theorem test_table_word : decodeTableWord 8 0x60 = some (.pktAsm 0#32) := by decide

theorem test_table_word_unknown : decodeTableWord 8 0x62 = none := by decide

theorem test_step_runs_the_word :
    (nextOf (step (State.reset.withFetchWord 8 0x20))).map (fun t => (t.fill, t.widx, t.port)) =
      some (1#5, 1#4, []) := by decide +kernel

/-! ## The spec's vectors, one step each -/

/-- Section 2.1. -/
theorem test_csum8_wraps :
    (nextOf (execCsum8 [0xFF#8, 0x01#8] State.reset)).map State.output = some (some (.sum 0x00#8)) := by decide +kernel

/-- Section 2.1. -/
theorem test_csum8_r1 : csum8 (r1.take 27) = 0x95#8 := by decide +kernel

/-- Section 2.1, under the candidate CRC16_FN. -/
theorem test_crc16_digits :
    (nextOf (crc16With tc1 (hex 9 0x313233343536373839) State.reset)).map State.output =
      some (some (.crc 0xBEEF#16)) := by decide +kernel

/-- R132: at most 255 bytes. -/
theorem test_crc16_length :
    refusalOf (crc16With tc1 (List.replicate 256 0#8) State.reset) =
      some (.precondition (.outsideType .crc16)) := by decide +kernel

/-- Section 2.2: 31 + 1 modulo 32. -/
theorem test_tsUpdate_wrap :
    (nextOf (execTsUpdate 0#27 4#27 { State.reset with inst := ⟨5#27, 31#5⟩ })).map State.inst =
      some ⟨4#27, 0#5⟩ := by decide +kernel

/-- Section 2.2. -/
theorem test_tsUpdate_independent :
    (nextOf (execTsUpdate 99#27 8#27 { State.reset with pps := ⟨100#27, 2#5⟩, inst := ⟨7#27, 0#5⟩ })).map
      (fun t => (t.pps, t.inst)) = some (⟨99#27, 3#5⟩, ⟨8#27, 0#5⟩) := by decide +kernel

/-- Section 2.2. -/
theorem test_tsExpand_top :
    (nextOf (execTsExpand .pps 134217727#27 { State.reset with pps := ⟨0#27, 31#5⟩ })).map State.output =
      some (some (.expanded 4294967295#32)) := by decide +kernel

/-- Section 2.2: wrap 31 is used. -/
theorem test_tsPktexp_before :
    (nextOf (execTsPktexp 100#27 { State.reset with inst := ⟨5#27, 0#5⟩ })).map State.output =
      some (some (.expanded 4160749668#32)) := by decide +kernel

/-- Section 2.2: equal takes the current wrap. -/
theorem test_tsPktexp_equal :
    (nextOf (execTsPktexp 5#27 { State.reset with inst := ⟨5#27, 1#5⟩ })).map State.output =
      some (some (.expanded 134217733#32)) := by decide +kernel

/-- Section 2.2. -/
theorem test_cntSample :
    (nextOf (execCntSample #v[0x01#8, 0xE8#8, 0x48#8, 0#8, 0x02#8, 0#8, 0#8, 0x20#8] State.reset)).map
      (fun t => (t.output, t.slotAt 1#4, t.pps.ref)) =
      some (some (.sample 1048577#32 1000000#32), 32000000#32, 1000000#27) := by decide +kernel

/-- Section 2.2. -/
theorem test_cntSample_low_bits :
    (nextOf (execCntSample #v[0#8, 0#8, 0#8, 0x1F#8, 0#8, 0#8, 0#8, 0x20#8] State.reset)).map
      (fun t => (t.output, t.slotAt 1#4)) = some (some (.sample 1#32 0#32), 31#32) := by decide +kernel

/-- Section 2.3. -/
theorem test_ppsSave_first_zero :
    (nextOf (execPpsSave 0#32 State.reset)).map (fun t => (t.widx, t.fill)) = some (1#4, 1#5) := by decide +kernel

/-- Section 2.3. -/
theorem test_ppsSave_overwrites :
    (nextOf (execPpsSave 512001000#32 (ring 16))).map (fun t => (t.widx, t.fill, t.slotAt 1#4)) =
      some (1#4, 16#5, 512001000#32) := by decide +kernel

/-- Section 2.4. -/
theorem test_bufClear :
    (nextOf (execBufClear (fetched r1 State.reset))).map (fun t => (t.size, t.cursor, t.packetCount)) =
      some (0#13, 0#13, 0#8) := by decide +kernel

/-- Section 2.4. -/
theorem test_bufFetch_two :
    (nextOf (execBufFetch 54#16 58#16 ([0x00#8, 0x11#8, 0x22#8] ++ r1 ++ r2) State.reset)).map
      (fun t => (t.output, t.size, t.byte 3)) = some (some (.count 2#8), 55#13, 0x00#8) := by decide +kernel

/-- Section 2.4. -/
theorem test_bufFetch_one_byte_left :
    (nextOf (execBufFetch 29#16 29#16 (r1 ++ [0xA5#8]) State.reset)).map (fun t => (t.status, t.size)) =
      some (1#8, 0#13) := by decide +kernel

/-- Section 2.4: the metrics 2, −1, 3, −2. -/
theorem test_bufPop_r4 :
    (nextOf (execBufPop (fetched r4 State.reset))).map (fun t => (t.cursor, t.packetCount, t.output)) =
      some (32#13, 0#8, some (.packet
        { payloadLen := 5#8, channel := 2#8, crcEn := true, codingRate := 1#3, datarate := 7#4, modemId := 2#8,
          freqOffset := 0, crcError := false, syncError := false, headerError := false, timingSet := true,
          snrAvg := 0#8, rssiChanAvg := 0#8, rssiSigAvg := 0#8, rssiChanNegDelta := 0#4, rssiChanPosDelta := 0#4,
          rssiSigNegDelta := 0#4, rssiSigPosDelta := 0#4, timestamp := 488400014#32, crc16 := 0x8196#16,
          numMetrics := 2#8, metrics := [2#8, 255#8, 3#8, 254#8], payload := hex 5 0x48656C6C6F })) := by decide +kernel

/-- Section 2.4: a negative offset, sign-extended. -/
theorem test_bufPop_freq_offset :
    (((fetched r2 State.reset).parse recordLayout).toOption.map fun x => (x.1.freqOffset, x.1.snrAvg, x.1.rssiSigAvg)) =
      some (-256, 0x28#8, 0x5A#8) := by decide +kernel

/-- Section 2.5. -/
theorem test_toa_sf7 :
    (timeOnAir .bw125 7 1#3 8 true true 5#8) = ⟨1024, 10, 121 / 4, 30976⟩ := by decide +kernel

/-- Section 2.5. -/
theorem test_toa_no_header :
    (timeOnAir .bw250 6 2#3 8 false true 255#8) = ⟨256, 510, 2129 / 4, 136256⟩ := by decide +kernel

/-- R206, with the magnitude 0 of this configuration. -/
theorem test_corrLegacy_runs :
    (nextOf (corrLegacyWith tc1 .bw125 7 1#3 true 5#8 State.reset)).map State.output =
      some (some (.correction 0)) := by decide +kernel

/-- Section 2.5. -/
theorem test_corrPrec_sf12 :
    (nextOf (corrPrecWith tc1 .bw500 12 4#3 true 255#8 State.reset)).map State.output =
      some (some (.correction 3342330)) := by decide +kernel

/-- Section 2.5. -/
theorem test_corrPrec_empty :
    (nextOf (corrPrecWith tc1 .bw125 7 1#3 false 0#8 State.reset)).map State.output =
      some (some (.correction (-18))) := by decide +kernel

/-- Section 2.6: 7.3250125 at the edge, 0 beyond it. -/
theorem test_notch_edge :
    notchDelay tc1 75000#32 = 73250125 / 10000000 ∧ notchDelay tc1 75001#32 = 0 := by decide +kernel

/-- Section 2.6. -/
theorem test_notch_negative :
    (nextOf (notchWith tc1 (BitVec.ofInt 32 (-50000)) State.reset)).map State.output =
      some (some (.delay (-39953 / 10000))) := by decide +kernel

/-- Section 2.6: the live value is stale, the reference is SLOT[15]. -/
theorem test_ftimeCalc_stale :
    (nextOf (ftimeCalcWith tc1 [2#8, 255#8] 1#8 456400014#32 7 100000#32 0 480001000#32 (ring 16))).map
      State.output = some (some (.fine 250000046#32)) := by decide +kernel

/-- Section 2.6: SF12 uses four metrics. -/
theorem test_ftimeCalc_clip :
    (nextOf (ftimeCalcWith tc1 [3#8, 1#8, 254#8, 4#8, 5#8, 5#8, 5#8, 5#8, 1#8, 1#8] 5#8 496400014#32 12 100000#32 0
      480001000#32 (ring 16))).map State.output = some (some (.fine 111136347#32)) := by decide +kernel

/-- Program P1, record 2. -/
theorem test_pktAsm_p1 :
    (recordOf (pktAsmWith tc1 0#32 (after (pktAsmWith tc1 0#32)
      (after (execCntSample pairP1) (fetched (r1 ++ r2) State.reset))))).map
      (fun r => (r.freqHz, (r.sf, r.cr), r.freqOffsetHz, r.countUs)) =
      some (867700000#32, (.sf9, .cr46), 263, 114672#32) := by decide +kernel

/-- Program P4. -/
theorem test_pktAsm_fine :
    (recordOf (pktAsmWith tc1 480001000#32 { fetched r4 (ring 16) with inst := ⟨15281281#27, 0#5⟩ })).map
      (fun r => (r.ftimePresent, r.ftimeNs, r.countUs)) = some (true, 250000391#32, 15272722#32) := by decide +kernel

/-- Program P3b as one RECEIVE: the mismatch removes one packet only. -/
theorem test_receive_p3b :
    (nextOf (receiveWith tc1 54#16 54#16 (rb ++ r1) pairP1 [0#32, 0#32] State.reset)).map
      (fun t => (t.size, t.cursor, t.packetCount, t.status)) = some (54#13, 54#13, 0#8, 0#8) := by decide +kernel

/-- Program P3 as one RECEIVE, with no live value listed. -/
theorem test_receive_discards :
    (nextOf (receiveWith tc1 55#16 55#16 (r1 ++ r2.set 10 0xAC#8) pairP1 [] State.reset)).map
      (fun t => (t.size, t.inst.ref, t.widx, t.fill, t.status)) = some (0#13, 98304#27, 1#4, 1#5, 0#8) := by decide +kernel

/-- R93, D2: another table, the SNR read from the first payload byte. -/
theorem test_layout_is_configuration :
    ((fetched r1 State.reset).parse (fun f => if f = .snrAvg then ⟨.head, 9, 0, 8⟩ else recordLayout f)).toOption.map
      (fun x => x.1.snrAvg) = some 0x01#8 := by decide +kernel

/-- R105, D4: the other order of the pair. -/
theorem test_pairLayout_is_configuration :
    (nextOf (cntSampleWith { tc1 with pairLayout := ⟨#v[4, 5, 6, 7], #v[0, 1, 2, 3]⟩ } pairP1 State.reset)).map
      (fun t => t.slotAt 1#4) = some 0x00300000#32 := by decide +kernel

/-- R316 and program P1's counter pair. -/
theorem test_hostSide :
    hostFifoLength 20#16 28#16 = 28 ∧ pairOf 32000000#32 0x00300000#32 = pairP1 := by decide +kernel

/-! ## Cases that meet the statements' hypotheses -/

theorem witness_DecodeOfEncodeGivesTheOperation :
    (Instr.receive 28#16 20#16 r1 pairP1 [7#32]).WellFormed := by decide +kernel

theorem witness_EncodeOfDecodeGivesTheRequest :
    (decode ⟨0x50#8, [.int (-75000)]⟩).toOption = some (.notch (BitVec.ofInt 32 (-75000))) := by decide +kernel

theorem witness_UnknownCommandCodesAreRefused :
    ∃ (s : State) (r : Request) (rest : List Request), s.port = r :: rest ∧ ∀ op : Opcode, r.code ≠ op.code := ⟨{ State.reset with port := [⟨0x03#8, []⟩] }, ⟨0x03#8, []⟩, [], rfl, fun op => by cases op <;> decide⟩

theorem witness_StepRunsTheDecodedOperation :
    ∃ (s : State) (r : Request) (rest : List Request) (i : Instr), s.port = r :: rest ∧ decode r = .ok i := ⟨{ State.reset with port := [encode .bufPop] }, encode .bufPop, [], .bufPop, rfl, rfl⟩

theorem witness_BrokenPreconditionsAreRefused :
    (Instr.toa .bw125 13 1#3 8 true true 5#8).check = some .correctionOperands := by decide

/-- A state with a packet left, an incomplete record behind it, two snapshots and a request. -/
def busy : State :=
  { after (execPpsSave 9#32) (after (execPpsSave 7#32) (fetched (r1 ++ [0xA5#8, 0xC0#8]) State.reset)) with
    port := [encode .bufPop] }

theorem busy_ranges : busy.RangesOk :=
  ⟨by decide +kernel, by decide +kernel, by decide +kernel, by decide +kernel, by decide +kernel⟩

theorem busy_steps : ∃ t, step busy = .next t := next_of (by decide +kernel)

theorem busy_canonical : busy.BufferCanonical := by
  show memWf busy.buf = true
  decide +kernel

theorem busy_distinct : busy.RingDistinct := by
  have h : ∀ k, k < busy.fill.toNat → k + 1 < busy.fill.toNat →
    busy.slotAt (busy.widx - BitVec.ofNat 4 k) ≠ busy.slotAt (busy.widx - BitVec.ofNat 4 k - 1#4) := by
    decide +kernel
  exact fun k hk => h k (Nat.lt_of_succ_lt hk) hk

theorem busy_framed : busy.Framed := by
  show walk recordLayout busy.byte busy.size.toNat busy.size.toNat busy.cursor.toNat 0 = some busy.packetCount.toNat
  decide +kernel

theorem witness_StepKeepsTheRanges : ∃ s t : State, s.RangesOk ∧ step s = .next t :=
  busy_steps.elim fun t h => ⟨busy, t, busy_ranges, h⟩

theorem witness_StepKeepsTheBufferCanonical : ∃ s t : State, s.BufferCanonical ∧ step s = .next t :=
  busy_steps.elim fun t h => ⟨busy, t, busy_canonical, h⟩

theorem witness_StepKeepsNeighbouringEntriesDistinct :
    ∃ s t : State, s.RangesOk ∧ s.RingDistinct ∧ 2 ≤ s.fill.toNat ∧ step s = .next t :=
  busy_steps.elim fun t h => ⟨busy, t, busy_ranges, busy_distinct, by decide +kernel, h⟩

theorem witness_StepKeepsPacketCountExact :
    ∃ s t : State, s.RangesOk ∧ s.BufferCanonical ∧ s.Framed ∧ step s = .next t :=
  busy_steps.elim fun t h => ⟨busy, t, busy_ranges, busy_canonical, busy_framed, h⟩

theorem witness_FillCountNeverDecreases : ∃ s t : State, step s = .next t :=
  busy_steps.elim fun t h => ⟨busy, t, h⟩

theorem witness_EveryOperationIsTotal :
    busy.RangesOk ∧ (Instr.receive 28#16 20#16 r1 pairP1 []).WellFormed :=
  ⟨busy_ranges, by decide +kernel⟩

/-- Two states no operation can tell apart, which differ in STATUS, in the results, in a byte at `size` and in a
slot never stored. -/
def twin : State :=
  { busy with buf := memWrite busy.buf 40 1#8, slot := busy.slot.set 9 5#32, status := 3#8, output := some (.sum 1#8) }

theorem witness_UnobservableStateStaysUnobserved :
    ∃ s t : State, s.BufferCanonical ∧ t.BufferCanonical ∧ s.Alike t ∧ s ≠ t ∧ s.port ≠ [] := by
  refine ⟨busy, twin, busy_canonical, memWrite_wf (by decide) busy_canonical, ⟨rfl, rfl, rfl, rfl, rfl, rfl, rfl, rfl,
    rfl, ?_, ?_⟩, ?_, ?_⟩
  · decide +kernel
  · unfold State.SlotStored
    decide +kernel
  · decide +kernel
  · decide +kernel

theorem witness_RegistersAreWrittenOnlyByTheirOperations :
    ∃ (i : Instr) (s t : State), exec i s = .next t ∧
      i.opcode ∉ [Opcode.bufFetch, .receive] ∧ i.opcode ∉ [Opcode.bufClear, .bufFetch, .pktAsm, .receive] ∧
      i.opcode ∉ [Opcode.bufClear, .bufFetch, .bufPop, .pktAsm, .receive] ∧
      i.opcode ∉ [Opcode.tsUpdate, .cntSample, .receive] ∧ i.opcode ∉ [Opcode.ppsSave, .cntSample, .receive] ∧
      i.opcode ≠ .receive := ⟨.csum8 [], busy, _, rfl, by decide, by decide, by decide, by decide, by decide, by decide⟩

theorem witness_Crc16FoldsTheBytes :
    (List.replicate 255 0#8).length ≤ 255 ∧ 255 < (List.replicate 256 0#8).length := by decide +kernel

theorem witness_TimelySamplesTrackTheCounter :
    ({ State.reset with inst := ⟨134217720#27, 31#5⟩ }.domain .inst).Tracks (2 ^ 32 - 8) ∧
      SampledInTime (2 ^ 32 - 8) (2 ^ 32 + 32) ∧
      (match DomainName.inst with | .inst => 32#27 | .pps => 0#27) = BitVec.ofNat 27 (2 ^ 32 + 32) := by
  unfold TimestampDomain.Tracks SampledInTime; decide +kernel

/-- The oldest capture that is still recovered. -/
theorem witness_PacketTimeIsRecovered :
    ({ State.reset with inst := ⟨32#27, 1#5⟩ }.inst).Tracks (2 ^ 27 + 32) ∧
      SampledInTime 33 (2 ^ 27 + 32) := by
  unfold TimestampDomain.Tracks SampledInTime; decide +kernel

/-- Both clauses, the first on an empty and on a full ring. -/
theorem witness_PpsSaveStoresANewSnapshot :
    (State.reset.fill = 0#5 ∨ 0#32 ≠ State.reset.slot.get State.reset.widx.toFin) ∧
      ((ring 16).fill = 0#5 ∨ 7#32 ≠ (ring 16).slot.get (ring 16).widx.toFin) ∧
      ((ring 16).fill ≠ 0#5 ∧ 480001000#32 = (ring 16).slot.get (ring 16).widx.toFin) := by decide +kernel

/-- Section 1.3. -/
theorem witness_RepeatedSavesCountOnce :
    1 ≤ 3 ∧ (nextOf (Host.Core.run Sys2Proof.core 3
      { State.reset with port := List.replicate 3 (encode (.ppsSave 7#32)) })).map State.fill = some 1#5 := by decide +kernel

/-- U2 for the second counter. -/
theorem witness_TsUpdateCountsTheWraps_refusal :
    rejection ⟨0x10#8, [.num 0, .num (2 ^ 27)]⟩ = some .counterRange := by decide

/-- U2. -/
theorem witness_TsExpandJoinsWrapAndRaw_refusal :
    rejection ⟨0x11#8, [.dom .inst, .num (2 ^ 27)]⟩ = some .counterRange := by decide

theorem witness_SixteenSavesFillTheRing :
    ∀ k, (h : k < 15) → (Vector.ofFn fun i : Fin 16 => BitVec.ofNat 32 i.val)[k] ≠
      (Vector.ofFn fun i : Fin 16 => BitVec.ofNat 32 i.val)[k + 1] := by decide +kernel

theorem witness_BufFetchDiscardsShortData :
    FetchLegal 22#16 0#16 (r0.take 22) ∧ (r0.take 22).length < 23 := by decide +kernel

theorem witness_BufFetchDiscardsUnsyncedData :
    FetchLegal 23#16 0#16 (List.replicate 23 0xA5#8) ∧ 23 ≤ (List.replicate 23 0xA5#8).length ∧
      ∀ k, ¬ ((List.replicate 23 0xA5#8)[k]? = some 0xA5#8 ∧ (List.replicate 23 0xA5#8)[k + 1]? = some 0xC0#8) := by
  refine ⟨by decide +kernel, by decide +kernel, fun k h => ?_⟩
  have := List.mem_of_getElem? h.2
  simp at this

/-- A garbage byte equal to the first sync byte right before the sync word. -/
theorem witness_BufFetchSkipsLeadingGarbage :
    FetchLegal 30#16 30#16 ([0xC0#8, 0xA5#8] ++ r1) ∧ FetchLegal 28#16 0#16 r1 ∧ 23 ≤ r1.length ∧
      r1[0]? = some 0xA5#8 ∧ r1[1]? = some 0xC0#8 ∧
      ∀ k, k < [0xC0#8, 0xA5#8].length → ¬ (([0xC0#8, 0xA5#8] ++ r1)[k]? = some 0xA5#8 ∧
        ([0xC0#8, 0xA5#8] ++ r1)[k + 1]? = some 0xC0#8) := by decide +kernel

/-- The clause on the stored bytes, with one byte of garbage. -/
theorem witness_BufFetchEndsWithCountOrFailure :
    FetchLegal 4096#16 0#16 (List.replicate 4096 0#8) ∧ FetchLegal 24#16 24#16 (0xA5#8 :: r0) ∧
      State.reset.BufferCanonical ∧ 23 ≤ (0xA5#8 :: r0).length ∧ findSync (0xA5#8 :: r0) = some 1 ∧
      (nextOf (exec (.bufFetch 24#16 24#16 (0xA5#8 :: r0)) State.reset)).map State.status = some 0#8 := ⟨by decide +kernel, by decide +kernel, rfl, by decide +kernel, by decide +kernel, by decide +kernel⟩

/-- What BufFetchCountsCompleteRecords asks of garbage, records and a rest that `b` would complete. -/
abbrev CountHypotheses (len : Half) (garbage : List Byte) (rs : List (List Byte)) (rest b : List Byte) : Prop :=
  let body := rs.flatten ++ rest
  FetchLegal len len (garbage ++ body) ∧ State.reset.BufferCanonical ∧ (∀ b ∈ rs, FramedRecord b) ∧
    (FramedRecord b ∧ rest <+: b ∧ 2 ≤ rest.length ∧ rest.length < b.length) ∧
    (∀ k, k < garbage.length →
      ¬ ((garbage ++ body)[k]? = some 0xA5#8 ∧ (garbage ++ body)[k + 1]? = some 0xC0#8)) ∧
    23 ≤ (garbage ++ body).length ∧ body ≠ []

/-- A record and an incomplete one. -/
theorem witness_BufFetchCountsCompleteRecords : CountHypotheses 50#16 [] [r1] (r2.take 22) r2 :=
  ⟨by decide +kernel, rfl, by decide +kernel, ⟨by decide +kernel, List.take_prefix 22 r2, by decide +kernel,
    by decide +kernel⟩, by decide +kernel, by decide +kernel, by decide +kernel⟩

/-- A byte of garbage and a synced rest of 22 bytes (R176 (i)). -/
theorem witness_BufFetchCountsCompleteRecords_short : CountHypotheses 23#16 [0xA5#8] [] (r1.take 22) r1 :=
  ⟨by decide +kernel, rfl, by decide +kernel, ⟨by decide +kernel, List.take_prefix 22 r1, by decide +kernel,
    by decide +kernel⟩, by decide +kernel, by decide +kernel, by decide +kernel⟩

theorem witness_BufFetchDiscardsABrokenBoundary :
    FetchLegal 29#16 0#16 ([r1].flatten ++ [0xA5#8]) ∧ State.reset.BufferCanonical ∧ [r1] ≠ [] ∧
      (∀ b ∈ [r1], FramedRecord b) ∧ [0xA5#8] ≠ [] ∧
      ¬ ([0xA5#8][0]? = some 0xA5#8 ∧ [0xA5#8][1]? = some 0xC0#8) := ⟨by decide +kernel, rfl, by decide, by decide +kernel, by decide, by decide⟩

/-- The hypotheses of a pop that succeeds, for a state, its cursor and its two length fields. -/
abbrev PopHypotheses (s : State) (c n m : Nat) : Prop :=
  s.size.toNat ≤ 4096 ∧ c = s.cursor.toNat ∧ s.byte c = 0xA5#8 ∧ s.byte (c + 1) = 0xC0#8 ∧
    n = (s.byte (c + 2)).toNat ∧ m = (s.byte (c + 9 + n + 12)).toNat ∧
    c + (9 + n + 14 + 2 * m) ≤ s.size.toNat ∧
    ((bytesAt s.byte c (9 + n + 14 + 2 * m - 1)).map BitVec.toNat).sum % 256 =
      (s.byte (c + (9 + n + 14 + 2 * m) - 1)).toNat ∧
    (s.byte (c + 5)).toNat ≤ 17 ∧
    ((s.byte (c + 5)).toNat ≤ 16 → (s.byte (c + 3)).toNat ≤ 9 ∧
      5 ≤ (s.byte (c + 4)).toNat / 16 ∧ (s.byte (c + 4)).toNat / 16 ≤ 12)

theorem witness_BufPopReturnsAValidRecord : PopHypotheses (fetched r4 State.reset) 0 5 2 := by
  decide +kernel

/-- Modem 16, channel 9, SF code 12 (section 2.4): the last values a LoRa modem may have. -/
theorem witness_BufPopReturnsAValidRecord_bounds :
    PopHypotheses (fetched (hex 26 0xA5C00309C31000000001020300000000000000001000221200_8E) State.reset) 0 3 0 := by
  decide +kernel

/-- What BufPopFailuresChangeOnlyStatus asks of every clause. -/
abbrev PopFields (s : State) (c n m r : Nat) : Prop :=
  s.size.toNat ≤ 4096 ∧ c = s.cursor.toNat ∧ n = (s.byte (c + 2)).toNat ∧
    m = (s.byte (c + 9 + n + 12)).toNat ∧ r = 9 + n + 14 + 2 * m

/-- The first clause: a record short of one byte. -/
theorem witness_BufPopFailuresChangeOnlyStatus_malformed :
    let s := fetched (r1 ++ r2.take 26) State.reset
    let t := after execBufPop s
    PopFields t 28 4 0 27 ∧
      ¬ (t.byte 28 = 0xA5#8 ∧ t.byte 29 = 0xC0#8 ∧ 28 + 27 ≤ t.size.toNat) := by
  decide +kernel

/-- The second clause. -/
theorem witness_BufPopFailuresChangeOnlyStatus_checksum :
    let s := fetched (r1.set 11 0x13#8) State.reset
    PopFields s 0 5 0 28 ∧ (s.byte 0 = 0xA5#8 ∧ s.byte 1 = 0xC0#8 ∧ 0 + 28 ≤ s.size.toNat) ∧
      ((bytesAt s.byte 0 27).map BitVec.toNat).sum % 256 ≠ (s.byte 27).toNat := by
  decide +kernel

/-- The third clause, by the modem id 18 of section 2.4. -/
theorem witness_BufPopFailuresChangeOnlyStatus_metadata :
    let s := fetched rm State.reset
    PopFields s 0 3 0 26 ∧ (s.byte 0 = 0xA5#8 ∧ s.byte 1 = 0xC0#8 ∧ 0 + 26 ≤ s.size.toNat) ∧
      ((bytesAt s.byte 0 25).map BitVec.toNat).sum % 256 = (s.byte 25).toNat ∧
      17 < (s.byte 5).toNat := by
  decide +kernel

/-- The third clause, by the channel 10 of a LoRa modem and by the SF codes 4 and 13 (section 2.4). -/
theorem witness_BufPopFailuresChangeOnlyStatus_lora :
    ∀ d ∈ [hex 26 0xA5C0030A731000000001020300000000000000001000221200_3F,
        hex 26 0xA5C003004300000000010203000000000000000010002212_00F5,
        hex 26 0xA5C00300D300000000010203000000000000000010002212_0085],
      let s := fetched d State.reset
      PopFields s 0 3 0 26 ∧ (s.byte 0 = 0xA5#8 ∧ s.byte 1 = 0xC0#8 ∧ 0 + 26 ≤ s.size.toNat) ∧
        ((bytesAt s.byte 0 25).map BitVec.toNat).sum % 256 = (s.byte 25).toNat ∧
        (s.byte 5).toNat ≤ 16 ∧
        (9 < (s.byte 3).toNat ∨ (s.byte 4).toNat / 16 < 5 ∨ 12 < (s.byte 4).toNat / 16) := by
  decide +kernel

/-- The last payload byte of r1 changed. -/
theorem witness_OneChangedPayloadByteIsCaught :
    ∃ (s t : State) (n m a : Nat), t.size.toNat ≤ 4096 ∧ s.size = t.size ∧ s.cursor = t.cursor ∧
      frameAt recordLayout s.byte s.size.toNat s.cursor.toNat = .complete n m ∧
      checksumOk recordLayout s.byte s.cursor.toNat n m = true ∧ s.cursor.toNat + 9 ≤ a ∧
      a < s.cursor.toNat + 9 + n ∧ t.byte a ≠ s.byte a ∧ ∀ b, b ≠ a → t.byte b = s.byte b := by
  refine ⟨fetched r1 State.reset,
    { fetched r1 State.reset with buf := memWrite (fetched r1 State.reset).buf 13 0x85#8 }, 5, 0, 13,
    by decide +kernel, rfl, rfl, by decide +kernel, by decide +kernel, by decide +kernel, by decide +kernel,
    by decide +kernel, fun b hb => memRead_memWrite_other hb⟩

/-- After the only complete record was popped: the invariant holds and no packet remains. -/
def drained : State := after execBufPop { busy with port := [] }

theorem witness_PopAtCountZeroFails : drained.Inv ∧ drained.packetCount = 0#8 ∧ drained.cursor ≠ drained.size := by
  refine ⟨⟨⟨by decide +kernel, by decide +kernel, by decide +kernel, by decide +kernel, by decide +kernel⟩, ?_, ?_, ?_⟩,
    by decide +kernel, by decide +kernel⟩
  · show memWf drained.buf = true
    decide +kernel
  · have h : ∀ k, k < drained.fill.toNat → k + 1 < drained.fill.toNat →
      drained.slotAt (drained.widx - BitVec.ofNat 4 k) ≠
        drained.slotAt (drained.widx - BitVec.ofNat 4 k - 1#4) := by decide +kernel
    exact fun k hk => h k (Nat.lt_of_succ_lt hk) hk
  · show walk recordLayout drained.byte drained.size.toNat drained.size.toNat drained.cursor.toNat 0 =
      some drained.packetCount.toNat
    decide +kernel

/-- The first and last spreading factor of each clause, of CORR_LEGACY's and CORR_PREC's statements too. -/
theorem witness_ToaFollowsItsFormula :
    (5 ≤ 5 ∧ 5 ≤ 12) ∧ (5 ≤ 12 ∧ 12 ≤ 12) ∧ ¬ (5 ≤ 4 ∧ 4 ≤ 12) ∧ ¬ (5 ≤ 13 ∧ 13 ≤ 12) := by decide

theorem witness_DurationIsAWholeNumberOfMicroseconds :
    ∃ (t : State) (r : ToaResult),
      exec (.toa .bw125 12 7#3 65535 true true 255#8) State.reset = .next t ∧ t.output = some (.airtime r) := ⟨_, _, rfl, rfl⟩

/-- Both clauses at their boundary values. -/
theorem witness_NotchIsAQuarticInsideItsBand :
    (75001#32 : Word).toInt = 75001 ∧ (BitVec.ofInt 32 (-75001)).toInt = -75001 ∧
      (75000#32 : Word).toInt = 75000 ∧ (BitVec.ofInt 32 (-75000)).toInt = -75000 := by decide +kernel

theorem witness_FtimeCalcNeedsAFullRing :
    FineLegal [2#8, 255#8] 1#8 5 ∧ (ring 15).fill.toNat < 16 := by decide +kernel

theorem witness_CrystalCheckInTicks :
    ((crystalFactor 26666667).toOption.isSome ∧ (crystalFactor 40000000).toOption.isSome) ∧
      ((crystalFactor 26666666).toOption = none ∧ (crystalFactor 40000001).toOption = none) := by decide +kernel

/-- Above 75 kHz the notch delay is 0 under every configuration (R220). -/
theorem notch_above : notchDelay Config.board 100000#32 = 0 := by
  have h : ((100000#32 : Word).toInt : ℚ) = 100000 := by
    rw [show (100000#32 : Word).toInt = 100000 by decide]
    norm_num
  unfold notchDelay
  rw [h]
  norm_num

/-- The hypotheses of FtimeCalcReturnsTheFloor for two metric bytes, spreading factor 7 and no frequency error,
above the notch's band, on the full ring. -/
abbrev FloorHypotheses (a b : Byte) (rawTs livePps aligned ref : Word) (mean t : ℚ) (j : BitVec 4) : Prop :=
  1 ≤ (1#8 : Byte).toNat ∧ [a, b].length = 2 * (1#8 : Byte).toNat ∧ 16 ≤ (ring 16).fill.toNat ∧
    Aligned rawTs 7 0 aligned ∧ Mean [a, b] 1#8 7 mean ∧ (ring 16).References aligned livePps ref j ∧
    26666667 ≤ ((ring 16).slotAt j - (ring 16).slotAt (j - 1#4)).toNat ∧
    ((ring 16).slotAt j - (ring 16).slotAt (j - 1#4)).toNat ≤ 40000000 ∧
    t = ((aligned - ref).toNat + mean + notchDelay Config.board 100000#32) * (125 / 4)
      * (32000000 / (((ring 16).slotAt j - (ring 16).slotAt (j - 1#4)).toNat : ℚ)) ∧
    0 ≤ t ∧ t < 1000000000

/-- The first reference, one second exactly after the live value: t = 999995312.5. -/
theorem witness_FtimeCalcReturnsTheFloor_fresh :
    FloorHypotheses 0x9C#8 0x9C#8 512400014#32 480001000#32 512001000#32 480001000#32 (-150) (999995312 + 1 / 2)
      0#4 := by
  refine ⟨by decide, by decide, by decide +kernel, ⟨401152, by decide +kernel, by decide +kernel⟩,
    ⟨2, by decide, by decide +kernel⟩, by decide +kernel, by decide +kernel, by decide +kernel, ?_,
    by decide +kernel, by decide +kernel⟩
  rw [notch_above]
  decide +kernel

/-- The second reference, one tick later than a second after the live value: the newest entry. -/
theorem witness_FtimeCalcReturnsTheFloor_stale :
    FloorHypotheses 2#8 255#8 488400014#32 456000999#32 488001000#32 480001000#32 (3 / 2) (250000046 + 7 / 8)
      0#4 := by
  refine ⟨by decide, by decide, by decide +kernel, ⟨401152, by decide +kernel, by decide +kernel⟩,
    ⟨2, by decide, by decide +kernel⟩, by decide +kernel, by decide +kernel, by decide +kernel, ?_,
    by decide +kernel, by decide +kernel⟩
  rw [notch_above]
  decide +kernel

/-- The full ring with the slot before the newest at `d` ticks before it. -/
def bent (d : Nat) : State := { ring 16 with slot := (ring 16).slot.set 15 (BitVec.ofNat 32 (480001000 - d)) }

theorem witness_FtimeCalcEndsInRangeOrFails :
    FineLegal (List.replicate 510 0#8) 255#8 12 ∧ (ring 15).fill.toNat < 16 := by
  decide +kernel

/-- No reference: every edge is a whole second away, and the live value one tick more. -/
theorem witness_FtimeCalcEndsInRangeOrFails_five :
    FineLegal [0#8, 0#8] 1#8 7 ∧ 16 ≤ (ring 16).fill.toNat ∧ Aligned 512400014#32 7 0 512001000#32 ∧
      Mean [0#8, 0#8] 1#8 7 0 ∧ 32000000 < ((512001000#32 : Word) - 480000999#32).toNat ∧
      ∀ i, 32000000 ≤ ((512001000#32 : Word) - (ring 16).slotAt i).toNat :=
  ⟨by decide, by decide +kernel, ⟨401152, by decide +kernel, by decide +kernel⟩, ⟨2, by decide, by decide +kernel⟩,
    by decide, by decide +kernel⟩

/-- A reference whose interval is one tick outside the bounds, below and above. -/
theorem witness_FtimeCalcEndsInRangeOrFails_six : ∀ d ∈ [26666666, 40000001],
    16 ≤ (bent d).fill.toNat ∧ (bent d).References 512001000#32 480001000#32 480001000#32 0#4 ∧
      d = ((bent d).slotAt 0#4 - (bent d).slotAt (0#4 - 1#4)).toNat ∧ ¬ (26666667 ≤ d ∧ d ≤ 40000000) := by
  decide +kernel

/-- The interval one second: `t` at exactly `10^9`, and negative (R235). -/
theorem witness_FtimeCalcEndsInRangeOrFails_seven :
    Aligned 512400014#32 7 0 512001000#32 ∧ Mean [0#8, 0#8] 1#8 7 0 ∧
      (ring 16).References 512001000#32 480001000#32 480001000#32 0#4 ∧
      Aligned 480400024#32 7 0 480001010#32 ∧ Mean [0x9C#8, 0x9C#8] 1#8 7 (-150) ∧
      (ring 16).References 480001010#32 480001000#32 480001000#32 0#4 ∧
      32000000 = ((ring 16).slotAt 0#4 - (ring 16).slotAt (0#4 - 1#4)).toNat ∧
      (1000000000 : ℚ) = (((512001000#32 : Word) - 480001000#32).toNat + 0 + notchDelay Config.board 100000#32)
        * (125 / 4) * (32000000 / (32000000 : ℕ)) ∧
      (-4375 : ℚ) = (((480001010#32 : Word) - 480001000#32).toNat + -150 + notchDelay Config.board 100000#32)
        * (125 / 4) * (32000000 / (32000000 : ℕ)) := by
  refine ⟨⟨401152, by decide +kernel, by decide +kernel⟩, ⟨2, by decide, by decide +kernel⟩, by decide +kernel,
    ⟨401152, by decide +kernel, by decide +kernel⟩, ⟨2, by decide, by decide +kernel⟩, by decide +kernel,
    by decide +kernel, ?_, ?_⟩ <;> rw [notch_above] <;> decide +kernel

theorem witness_PktAsmReturnsARecord :
    ∃ (s : State) (p : DecodedPacket) (r : Nat) (ch : Fin 10), s.size.toNat ≤ 4096 ∧ s.parse recordLayout = .ok (p, r) ∧
      p.channel.toNat = ch.val ∧
      (Config.board.ifMod.get ch ≠ .fsk → p.crcEn = true → crc16 Config.board p.payload = p.crc16) := by
  have h : (fetched rn State.reset).parse recordLayout = .ok (extract recordLayout (fetched rn State.reset).byte 0 3 0, 26) :=
    parse_eq_ok.2 ⟨3, 0, by decide +kernel, by decide +kernel, by decide +kernel, rfl, by decide +kernel⟩
  refine ⟨fetched rn State.reset, _, 26, 0, by decide +kernel, h, by decide +kernel, fun _ hc => ?_⟩
  exact absurd hc (by decide +kernel)

/-- Both clauses; the second with modem 17 on channel 10 (section 2.4). -/
theorem witness_PktAsmDiscardsAfterAFailedPop :
    (∃ f, (fetched rm State.reset).parse recordLayout = .error f) ∧ (fetched rm State.reset).size.toNat ≤ 4096 ∧
      ∃ p r, (fetched (hex 26 0xA5C0030A731100000001020300000000000000001000221200_40) State.reset).parse
        recordLayout = .ok (p, r) ∧ 9 < p.channel.toNat := by
  refine ⟨?_, by decide +kernel, ?_⟩
  · exact (by decide +kernel : ((fetched rm State.reset).parse recordLayout).toOption = none) |> fun h => by
      cases hp : (fetched rm State.reset).parse recordLayout with
      | error f => exact ⟨f, rfl⟩
      | ok x => rw [hp] at h; simp [Except.toOption] at h
  · obtain ⟨p, r, hp, hc⟩ := parse_of (s := fetched (hex 26 0xA5C0030A731100000001020300000000000000001000221200_40)
      State.reset) (ch := 10) (by decide +kernel)
    exact ⟨p, r, hp, by omega⟩

theorem witness_Crc16MismatchKeepsTheBuffer :
    ∃ (s : State) (p : DecodedPacket) (r : Nat) (ch : Fin 10), tc1.Legal ∧ s.size.toNat ≤ 4096 ∧
      s.parse recordLayout = .ok (p, r) ∧ p.channel.toNat = ch.val ∧ tc1.ifMod.get ch ≠ .fsk ∧ p.crcEn = true ∧
      crc16 tc1 p.payload ≠ p.crc16 := by
  have h : (fetched rb State.reset).parse recordLayout = .ok (extract recordLayout (fetched rb State.reset).byte 0 3 0, 26) :=
    parse_eq_ok.2 ⟨3, 0, by decide +kernel, by decide +kernel, by decide +kernel, rfl, by decide +kernel⟩
  exact ⟨fetched rb State.reset, _, 26, 1, by decide +kernel, by decide +kernel, h, by decide +kernel,
    by decide +kernel, by decide +kernel, by decide +kernel⟩

theorem witness_FineTimestampOnlyOverlays :
    ∃ (s s' t : State) (a : NormalizedRxRecord), s' = { s with slot := s'.slot, widx := s'.widx, fill := s'.fill } ∧
      pktAsmWith tc1 480001000#32 s = .next t ∧ t.output = some (.record a) := by
  obtain ⟨t, a, ht, ha⟩ := record_of (o := pktAsmWith tc1 480001000#32 (fetched r4 (ring 16))) (by decide +kernel)
  exact ⟨fetched r4 (ring 16), { fetched r4 (ring 16) with fill := 3#5 }, t, a, rfl, ht, ha⟩

/-- An eligible packet (program P4). -/
theorem witness_FineTimestampIsFtimeCalc :
    ∃ (s t u : State) (p : DecodedPacket) (r : Nat) (a : NormalizedRxRecord) (ch : Fin 10),
      s.parse recordLayout = .ok (p, r) ∧ p.channel.toNat = ch.val ∧ pktAsmWith tc1 480001000#32 s = .next t ∧
      t.output = some (.record a) ∧
      (tc1.ifMod.get ch ≠ .fsk ∧ 5 ≤ p.datarate.toNat ∧ p.datarate.toNat ≤ 12 ∧ 1 ≤ p.numMetrics.toNat ∧
        p.timingSet = true ∧ p.crcEn = true ∧ p.crcError = false) ∧
      ftimeCalcWith tc1 p.metrics p.numMetrics p.timestamp p.datarate.toNat (tc1.ifFreq.get ch)
        ((a.freqOffsetHz : ℚ) / a.freqHz.toNat) 480001000#32 s = .next u := by
  have h : (fetched r4 (ring 16)).parse recordLayout = .ok (extract recordLayout (fetched r4 (ring 16)).byte 0 5 2, 32) :=
    parse_eq_ok.2 ⟨5, 2, by decide +kernel, by decide +kernel, by decide +kernel, rfl, by decide +kernel⟩
  obtain ⟨t, a, ht, ha⟩ := record_of (o := pktAsmWith tc1 480001000#32 (fetched r4 (ring 16))) (by decide +kernel)
  have hl : FineLegal (extract recordLayout (fetched r4 (ring 16)).byte 0 5 2).metrics
    (extract recordLayout (fetched r4 (ring 16)).byte 0 5 2).numMetrics
    (extract recordLayout (fetched r4 (ring 16)).byte 0 5 2).datarate.toNat := by decide +kernel
  obtain ⟨u, hu⟩ : ∃ u, ftimeCalcWith tc1 (extract recordLayout (fetched r4 (ring 16)).byte 0 5 2).metrics
      (extract recordLayout (fetched r4 (ring 16)).byte 0 5 2).numMetrics
      (extract recordLayout (fetched r4 (ring 16)).byte 0 5 2).timestamp
      (extract recordLayout (fetched r4 (ring 16)).byte 0 5 2).datarate.toNat (tc1.ifFreq.get 2)
      ((a.freqOffsetHz : ℚ) / a.freqHz.toNat) 480001000#32 (fetched r4 (ring 16)) = .next u := by
    unfold ftimeCalcWith
    rw [if_pos hl]
    unfold State.conclude
    split <;> exact ⟨_, rfl⟩
  exact ⟨fetched r4 (ring 16), t, u, _, 32, a, 2, h, by decide +kernel, ht, ha, by decide +kernel, hu⟩

theorem witness_FineTimestampIsFtimeCalc_ineligible :
    ∃ p r, (fetched r1 (ring 16)).parse recordLayout = .ok (p, r) ∧ p.channel.toNat = 0 ∧ ¬ 1 ≤ p.numMetrics.toNat ∧
      (recordOf (pktAsmWith tc1 480001000#32 (fetched r1 (ring 16)))).isSome := by
  have h : (fetched r1 (ring 16)).parse recordLayout = .ok (extract recordLayout (fetched r1 (ring 16)).byte 0 5 0, 28) :=
    parse_eq_ok.2 ⟨5, 0, by decide +kernel, by decide +kernel, by decide +kernel, rfl, by decide +kernel⟩
  exact ⟨_, _, h, by decide +kernel, by decide +kernel, by decide +kernel⟩

theorem witness_ReceiveAlwaysEndsOk :
    FetchLegal 28#16 20#16 r1 ∧ ¬ FetchLegal 4097#16 0#16 (List.replicate 4097 0#8) := by decide +kernel

theorem witness_ReceiveReturnsEveryGoodRecord :
    FetchLegal 52#16 52#16 [rn, rn].flatten ∧ State.reset.BufferCanonical ∧ ∀ b ∈ [rn, rn], GoodRecord Config.board b := by
  have h : GoodRecord Config.board rn :=
    ⟨by decide +kernel, by decide +kernel, by decide +kernel, by decide +kernel, by decide +kernel,
      fun _ _ _ hc => absurd hc (by decide +kernel)⟩
  exact ⟨by decide +kernel, rfl, by simpa using h⟩

theorem witness_ReceiveIsItsSteps :
    ∃ a b d : State, ∃ out, exec (.bufFetch 26#16 26#16 rm) State.reset = .next a ∧
      exec (.cntSample pairP1) a = .next b ∧ assembleAll [0#32] b [] = some (d, out) := by
  obtain ⟨a, ha⟩ := next_of (o := exec (.bufFetch 26#16 26#16 rm) State.reset) (by decide +kernel)
  have hb : ∃ d, assembleAll [0#32]
      (after (exec (.cntSample pairP1)) (after (exec (.bufFetch 26#16 26#16 rm)) State.reset)) [] = some d :=
    Option.isSome_iff_exists.1 (by decide +kernel)
  have haa : after (exec (.bufFetch 26#16 26#16 rm)) State.reset = a := by simp [after, nextOf, ha]
  rw [haa] at hb
  obtain ⟨⟨d, out⟩, hd⟩ := hb
  exact ⟨a, _, d, out, ha, rfl, hd⟩

theorem witness_OnlyTheAllowedStatusesOccur :
    ∃ (i : Instr) (s t : State), exec i s = .next t ∧ t.status = 3#8 := ⟨.bufPop, fetched rm State.reset, after execBufPop (fetched rm State.reset), by
    obtain ⟨t, ht⟩ := next_of (o := execBufPop (fetched rm State.reset)) (by decide +kernel)
    show execBufPop _ = _
    rw [after, ht]
    rfl, by decide +kernel⟩

/-- A failure of every operation that fails; BUF_POP's first and last code. -/
theorem witness_FailuresHaveExactlyTheirEffects :
    (nextOf (exec (.bufFetch 23#16 0#16 (List.replicate 23 0#8)) State.reset)).map State.status = some 1#8 ∧
      (nextOf (exec .bufPop State.reset)).map State.status = some 1#8 ∧
      (nextOf (exec .bufPop (fetched rm State.reset))).map State.status = some 3#8 ∧
      (nextOf (exec (.ftimeCalc [0#8, 0#8] 1#8 0#32 7 0#32 0 0#32) (ring 15))).map State.status = some 5#8 := by decide +kernel

/-- Both clauses on PKT_ASM. -/
theorem witness_FailuresHaveExactlyTheirEffects_pktAsm :
    (nextOf (pktAsmWith tc1 0#32 State.reset)).map State.status = some 1#8 ∧
      (nextOf (pktAsmWith tc1 0#32 (fetched rm State.reset))).map State.status = some 3#8 ∧
      (nextOf (pktAsmWith tc1 0#32 (fetched rb State.reset))).map State.status = some 4#8 := by decide +kernel

end Sys2Proof.Tests
end

section
/-! Proofs of the family `00_scope.md`: a step and the operation it runs (R6, R72, R289). -/

namespace Sys2Proof.Machine

/-- R6, R72: of the cases of a step, the one of a decoded request is the only one open when the oldest request
decodes. -/
theorem step_of_decode_ok {s : State} {r : Request} {rest : List Request} {i : Instr}
    (hp : s.port = r :: rest) (hd : decode r = .ok i) : step s = exec i { s with port := rest } := by
  obtain ⟨hnil, -⟩ | ⟨r', rest', e, hp', hd', -⟩ | ⟨r', rest', i', hp', hd', hs⟩ := step_cases s
  · simp [hp] at hnil
  · obtain ⟨rfl, rfl⟩ := List.cons.inj (hp.symm.trans hp')
    simp [hd] at hd'
  · obtain ⟨rfl, rfl⟩ := List.cons.inj (hp.symm.trans hp')
    obtain rfl := Except.ok.inj (hd.symm.trans hd')
    exact hs

/-- R289: the idle engine keeps all its state. -/
theorem step_of_port_nil {s : State} (hp : s.port = []) : step s = .next s := by
  obtain ⟨-, hs⟩ | ⟨r, rest, e, hp', -⟩ | ⟨r, rest, i, hp', -⟩ := step_cases s
  · exact hs
  all_goals simp [hp] at hp'

/-- Settles O5, from the two rules of a step above. -/
theorem stepRunsTheDecodedOperation : Obligations.StepRunsTheDecodedOperation :=
  ⟨fun _ _ _ _ hp hd => step_of_decode_ok hp hd, fun _ hp => step_of_port_nil hp⟩

end Sys2Proof.Machine
end

section
/-! What one operation can write before it sets STATUS and its results, and the induction over it: a property that
every single update keeps holds after every step. -/

namespace Sys2Proof.Machine

open Sys2Proof.Params

/-- The registers an operation can write before it ends, one constructor per writing operation (R20). `nothing`
is open to every operation: those that write none, and the failures that leave the state (R182). -/
inductive Writes : Instr → State → State → Prop where
  | nothing (i : Instr) (s : State) : Writes i s s
  | tsUpdate (p i : Raw27) (s : State) : Writes (.tsUpdate p i) s (s.tsUpdate p i)
  | cntSample (pair : Vector Byte 8) (s : State) :
      Writes (.cntSample pair) s (s.sampleCounters Config.board.pairLayout pair)
  | ppsSave (raw : Word) (s : State) : Writes (.ppsSave raw) s (s.savePps raw)
  | bufClear (s : State) : Writes .bufClear s s.clearBuffer
  | bufFetch (len1 len2 : Half) (data : List Byte) (s : State) (hd : data.length ≤ bufCap) :
      Writes (.bufFetch len1 len2 data) s (s.fetch Config.board.layout data).1
  | bufPop (s : State) {p : DecodedPacket} {r : Nat} (hb : s.size.toNat ≤ bufCap)
      (hp : s.parse Config.board.layout = .ok (p, r)) : Writes .bufPop s (s.popped r)
  | pktAsm (live : Word) {s u : State} {e : Except Failure NormalizedRxRecord}
      (ha : s.assemble Config.board live = .next (u, e)) : Writes (.pktAsm live) s u
  | receive (len1 len2 : Half) (data : List Byte) (pair : Vector Byte 8) (lives draws : List Word)
      {s u : State} {out : List NormalizedRxRecord} (hd : data.length ≤ bufCap)
      (hl : ((s.fetch Config.board.layout data).1.sampleCounters Config.board.pairLayout pair).receiveLoop
        Config.board draws [] = .next (u, out)) :
      Writes (.receive len1 len2 data pair lives) s u.countCycle

/-- The state `t` ends an operation that left the registers of `u`: STATUS and the results are all it adds. -/
def Ends (u t : State) : Prop := (∃ r, t = u.finish r) ∨ ∃ f, t = u.fail f

theorem ends_finish (u : State) (r : Option Result) : Ends u (u.finish r) := .inl ⟨r, rfl⟩

theorem ends_fail (u : State) (f : Failure) : Ends u (u.fail f) := .inr ⟨f, rfl⟩

theorem ends_of_conclude {u t : State} {e : Except Failure Result} (h : u.conclude e = .next t) : Ends u t := by
  obtain ⟨r, -, rfl⟩ | ⟨f, -, rfl⟩ := conclude_eq_next.1 h
  · exact ends_finish u _
  · exact ends_fail u f

/-- An operation behind a precondition that answers a next state had the precondition. -/
theorem guarded_eq_next {p : Prop} [Decidable p] {k : Host.Outcome State Fault Refusal} {r : Reject} {t : State} :
    (if p then k else refusePrecondition r) = .next t ↔ p ∧ k = .next t := by
  by_cases h : p <;> simp [h, refusePrecondition]

theorem length_le_of_fetchLegal {len1 len2 : Half} {data : List Byte} (h : FetchLegal len1 len2 data) :
    data.length ≤ bufCap := h.2.trans_le h.1

/-- An operation that only hands over a result writes no register. -/
theorem writes_nothing_of_finish {i : Instr} {s t : State} {r : Option Result}
    (h : Host.Outcome.next (φ := Fault) (ρ := Refusal) (s.finish r) = .next t) :
    ∃ u, Writes i s u ∧ Ends u t := by
  obtain rfl := Host.Outcome.next.inj h
  exact ⟨s, .nothing i s, ends_finish s r⟩

theorem bufPopWith_writes {s t : State} (h : bufPopWith Config.board s = .next t) :
    ∃ u, Writes .bufPop s u ∧ Ends u t := by
  obtain ⟨hb, hk⟩ := withBuffer_eq_next.1 h
  cases hp : s.parse Config.board.layout with
  | error f =>
    rw [hp] at hk
    obtain rfl := Host.Outcome.next.inj hk
    exact ⟨s, .nothing _ s, ends_fail s f⟩
  | ok pr =>
    rw [hp] at hk
    obtain rfl := Host.Outcome.next.inj hk
    exact ⟨_, .bufPop s hb hp, ends_finish _ _⟩

theorem pktAsmWith_writes {live : Word} {s t : State} (h : pktAsmWith Config.board live s = .next t) :
    ∃ u, Writes (.pktAsm live) s u ∧ Ends u t := by
  unfold pktAsmWith at h
  cases ha : s.assemble Config.board live with
  | next ue =>
    rw [ha] at h
    exact ⟨ue.1, .pktAsm live ha, ends_of_conclude h⟩
  | fault f => simp [ha] at h
  | refused r => simp [ha] at h

theorem receiveWith_writes {len1 len2 : Half} {data : List Byte} {pair : Vector Byte 8} {lives : List Word}
    {s t : State} (h : receiveWith Config.board len1 len2 data pair lives s = .next t) :
    ∃ u, Writes (.receive len1 len2 data pair lives) s u ∧ Ends u t := by
  obtain ⟨hl, hk⟩ := guarded_eq_next.1 h
  dsimp only at hk
  split at hk
  · rename_i u out hr
    obtain rfl := Host.Outcome.next.inj hk
    exact ⟨_, .receive len1 len2 data pair lives _ (length_le_of_fetchLegal hl) hr, ends_finish _ _⟩
  · cases hk
  · cases hk

/-- What an operation does that ends: it writes its registers, and then STATUS and the results. -/
theorem exec_writes {i : Instr} {s t : State} (h : exec i s = .next t) : ∃ u, Writes i s u ∧ Ends u t := by
  cases i with
  | csum8 d => exact writes_nothing_of_finish h
  | crc16 d => exact writes_nothing_of_finish (guarded_eq_next.1 h).2
  | tsUpdate p i =>
    obtain rfl := Host.Outcome.next.inj h
    exact ⟨_, .tsUpdate p i s, ends_finish _ _⟩
  | tsExpand dom raw => exact writes_nothing_of_finish h
  | tsPktexp raw => exact writes_nothing_of_finish h
  | cntSample pair =>
    obtain rfl := Host.Outcome.next.inj h
    exact ⟨_, .cntSample pair s, ends_finish _ _⟩
  | ppsSave raw =>
    obtain rfl := Host.Outcome.next.inj h
    exact ⟨_, .ppsSave raw s, ends_finish _ _⟩
  | bufClear =>
    obtain rfl := Host.Outcome.next.inj h
    exact ⟨_, .bufClear s, ends_finish _ _⟩
  | bufFetch len1 len2 data =>
    obtain ⟨hl, hk⟩ := guarded_eq_next.1 h
    exact ⟨_, .bufFetch len1 len2 data s (length_le_of_fetchLegal hl), ends_of_conclude hk⟩
  | bufPop => exact bufPopWith_writes h
  | toa bw sf cr nPre headerEn crcEn size => exact writes_nothing_of_finish (guarded_eq_next.1 h).2
  | corrLegacy bw sf cr crcEn size => exact writes_nothing_of_finish (guarded_eq_next.1 h).2
  | corrPrec bw sf cr crcEn size => exact writes_nothing_of_finish (guarded_eq_next.1 h).2
  | notch f => exact writes_nothing_of_finish h
  | ftimeCalc metrics m ts sf f fe live =>
    exact ⟨s, .nothing _ s, ends_of_conclude (guarded_eq_next.1 h).2⟩
  | pktAsm live => exact pktAsmWith_writes h
  | receive len1 len2 data pair lives => exact receiveWith_writes h

/-- A property that each single update of the state keeps. -/
structure KeptByUpdates (P : State → Prop) : Prop where
  takeRequest : ∀ (s : State) (rest : List Request), P s → P { s with port := rest }
  finish : ∀ (s : State) (r : Option Result), P s → P (s.finish r)
  fail : ∀ (s : State) (f : Failure), P s → P (s.fail f)
  countCycle : ∀ s : State, P s → P s.countCycle
  tsUpdate : ∀ (s : State) (p i : Raw27), P s → P (s.tsUpdate p i)
  savePps : ∀ (s : State) (raw : Word), P s → P (s.savePps raw)
  clearBuffer : ∀ s : State, P s → P s.clearBuffer
  fetch : ∀ (s : State) (data : List Byte), data.length ≤ bufCap → P s →
    P (s.fetch Config.board.layout data).1
  popped : ∀ (s : State) (p : DecodedPacket) (r : Nat), s.size.toNat ≤ bufCap →
    s.parse Config.board.layout = .ok (p, r) → P s → P (s.popped r)

namespace KeptByUpdates

variable {P : State → Prop}

theorem sampleCounters (hP : KeptByUpdates P) (l : PairLayout) {s : State} (pair : Vector Byte 8) (hs : P s) :
    P (s.sampleCounters l pair) := hP.tsUpdate _ _ _ (hP.savePps _ _ hs)

/-- PKT_ASM pops, and discards the buffer where it must. -/
theorem assemble (hP : KeptByUpdates P) {s u : State} {live : Word} {e : Except Failure NormalizedRxRecord}
    (hs : P s) (h : s.assemble Config.board live = .next (u, e)) : P u := by
  obtain ⟨-, ho⟩ | ⟨hb, ⟨f, -, ho⟩ | ⟨p, r, hp, -, ho⟩ | ⟨_, _, _, -, -, ho⟩ | ⟨p, r, _, _, hp, -, -, ho⟩ |
    ⟨p, r, _, _, hp, -, -, ho⟩⟩ := assemble_cases h
  · cases ho
  · cases ho
    exact hP.clearBuffer s hs
  · cases ho
    exact hP.clearBuffer _ (hP.popped s p r hb hp hs)
  · cases ho
  · cases ho
    exact hP.popped s p r hb hp hs
  · cases ho
    exact hP.popped s p r hb hp hs

theorem writes (hP : KeptByUpdates P) {i : Instr} {s u : State} (hs : P s) (h : Writes i s u) : P u := by
  cases h with
  | nothing => exact hs
  | tsUpdate p i => exact hP.tsUpdate s p i hs
  | cntSample pair => exact hP.sampleCounters _ pair hs
  | ppsSave raw => exact hP.savePps s raw hs
  | bufClear => exact hP.clearBuffer s hs
  | bufFetch _ _ data _ hd => exact hP.fetch s data hd hs
  | bufPop _ hb hp => exact hP.popped s _ _ hb hp hs
  | pktAsm live ha => exact hP.assemble hs ha
  | receive _ _ data pair _ _ hd hl =>
    exact hP.countCycle _ (receiveLoop_keeps (fun _ _ _ _ hs h => hP.assemble hs h) hl
      (hP.sampleCounters _ pair (hP.fetch s data hd hs)))

theorem exec (hP : KeptByUpdates P) {i : Instr} {s t : State} (hs : P s) (h : Machine.exec i s = .next t) :
    P t := by
  obtain ⟨u, hw, ⟨r, rfl⟩ | ⟨f, rfl⟩⟩ := exec_writes h
  · exact hP.finish u r (hP.writes hs hw)
  · exact hP.fail u f (hP.writes hs hw)

/-- What every single update keeps, every step keeps. -/
theorem step (hP : KeptByUpdates P) {s t : State} (hs : P s) (h : Machine.step s = .next t) : P t := by
  obtain ⟨-, hn⟩ | ⟨_, _, _, -, -, hn⟩ | ⟨_, rest, i, -, -, hn⟩ := step_cases s
  · obtain rfl := Host.Outcome.next.inj (hn.symm.trans h)
    exact hs
  · cases hn.symm.trans h
  · exact hP.exec (hP.takeRequest s rest hs) (hn.symm.trans h)

end KeptByUpdates

end Sys2Proof.Machine
end

section
/-! Proofs of the family `10_state.md`: reset, and the invariants that every step keeps (R24 to R37, R47, R408). -/

namespace Sys2Proof.Machine

open Sys2Proof.Params

/-! ## Reset -/

/-- Settles O7: each register is 0 in the reset state's own definition. -/
theorem resetClearsEveryRegister : Obligations.ResetClearsEveryRegister :=
  ⟨rfl, rfl, rfl, rfl, rfl, rfl, rfl, rfl, rfl, rfl⟩

theorem reset_ranges : State.reset.RangesOk :=
  ⟨le_refl 0, Nat.zero_le _, Nat.zero_le _, Nat.zero_le _, Nat.zero_le _⟩

/-- An empty ring has no neighbours. -/
theorem ringDistinct_of_fill_zero {s : State} (h : s.fill = 0#5) : s.RingDistinct := by
  intro k hk
  simp [h] at hk

/-- The walk of a buffer without bytes counts nothing. -/
theorem walk_size_zero (l : RecordLayout) (rd : Nat → Byte) (fuel idx count : Nat) :
    walk l rd 0 fuel idx count = some count := by
  cases fuel <;> simp [walk]

theorem framed_of_size_zero {s : State} (hs : s.size = 0#13) (hc : s.packetCount = 0#8) : s.Framed := by
  simp [State.Framed, hs, hc, walk_size_zero]

/-- Settles O8: ring and buffer are empty after reset, and the memory lists nothing. -/
theorem resetSatisfiesTheInvariant : Obligations.ResetSatisfiesTheInvariant where
  ranges := reset_ranges
  canonical := reset_memWf
  distinct := ringDistinct_of_fill_zero rfl
  framed := framed_of_size_zero rfl rfl

/-! ## The buffer after a fetch -/

/-- The states a fetch can leave: the empty buffer, the empty buffer over bytes that were loaded and discarded, or
the loaded bytes with the count of their walk. -/
theorem fetch_state_cases (l : RecordLayout) (s : State) {data : List Byte} (hd : data.length ≤ bufCap) :
    (s.fetch l data).1 = s.clearBuffer ∨
    (∃ d, d.length ≤ bufCap ∧ (s.fetch l data).1 = (s.clearBuffer.load d).clearBuffer) ∨
    (∃ d n, d.length ≤ bufCap ∧ walk l (s.clearBuffer.load d).byte d.length d.length 0 0 = some n ∧
      (s.fetch l data).1 = { s.clearBuffer.load d with packetCount := BitVec.ofNat 8 n }) := by
  have hlen (k : Nat) : (data.drop k).length ≤ bufCap := by
    rw [List.length_drop]
    exact (Nat.sub_le _ k).trans hd
  obtain ⟨-, hf⟩ | ⟨-, -, hf⟩ | ⟨k, -, -, -, hf⟩ | ⟨k, n, -, -, hw, hf⟩ := fetch_cases l s data
  · exact .inl (by rw [hf])
  · exact .inl (by rw [hf])
  · exact .inr (.inl ⟨_, hlen k, by rw [hf]⟩)
  · exact .inr (.inr ⟨_, n, hlen k, by rwa [List.length_drop], by rw [hf]⟩)

/-- A fetch writes the buffer group only (R171). -/
theorem fetch_frame (l : RecordLayout) (s : State) (data : List Byte) :
    (s.fetch l data).1.inst = s.inst ∧ (s.fetch l data).1.pps = s.pps ∧ (s.fetch l data).1.slot = s.slot ∧
      (s.fetch l data).1.widx = s.widx ∧ (s.fetch l data).1.fill = s.fill ∧
      (s.fetch l data).1.cycles = s.cycles ∧ (s.fetch l data).1.port = s.port := by
  obtain ⟨-, hf⟩ | ⟨-, -, hf⟩ | ⟨_, -, -, -, hf⟩ | ⟨_, _, -, -, -, hf⟩ := fetch_cases l s data
  all_goals simp [hf]

/-- A load sets `size` to the number of its bytes, without wrapping. -/
theorem load_size_toNat (s : State) {d : List Byte} (hd : d.length ≤ bufCap) :
    (s.load d).size.toNat = d.length := by
  rw [State.load_size, BitVec.toNat_ofNat]
  exact Nat.mod_eq_of_lt (hd.trans_lt (by decide))

/-- The walk of a buffer counts at most PACKETS_MAX records (R8). -/
theorem walk_le_packetsMax {l : RecordLayout} {rd : Nat → Byte} {size fuel n : Nat} (hs : size ≤ bufCap)
    (hw : walk l rd size fuel 0 0 = some n) : n ≤ packetsMax := by
  have hn := walk_bound l rd size fuel 0 0 n (Nat.zero_le _) hw
  simp only [minLen, headLen, tailLen, bufCap] at hn hs
  simp only [packetsMax]
  omega

/-- The count a fetch stores fits its register. -/
theorem count_toNat {n : Nat} (h : n ≤ packetsMax) : (BitVec.ofNat 8 n).toNat = n :=
  Nat.mod_eq_of_lt (h.trans_lt (by decide))

/-- A successful pop moves the cursor by the record's length, without wrapping. -/
theorem popped_cursor_toNat {l : RecordLayout} {s : State} {p : DecodedPacket} {r : Nat}
    (h : s.parse l = .ok (p, r)) : (s.popped r).cursor.toNat = s.cursor.toNat + r := by
  have hle := (parse_ok_le h).1
  have := s.size.isLt
  simp only [State.popped_cursor, BitVec.toNat_ofNat]
  omega

/-! ## The ring after a snapshot -/

/-- The ring after a snapshot was stored: the new slot holds it, the others are as before. -/
theorem get_set_slot (s : State) (w i : BitVec 4) (raw : Word) :
    (s.slot.set w.toFin raw).get i.toFin = if i = w then raw else s.slotAt i := by
  by_cases h : i = w
  · subst h
    simp [Vector.get_eq_getElem]
  · have hne : w.toNat ≠ i.toNat := fun hw => h (BitVec.eq_of_toNat_eq hw.symm)
    simp [Vector.get_eq_getElem, State.slotAt, h, hne]

/-- What storing a new snapshot does to the three registers of the ring (R161). -/
theorem savePps_stores {s : State} {raw : Word} (hnew : s.fill = 0#5 ∨ raw ≠ s.slotAt s.widx) :
    (s.savePps raw).widx = s.widx + 1#4 ∧
      (s.savePps raw).fill.toNat = (if s.fill.toNat < 16 then s.fill.toNat + 1 else s.fill.toNat) ∧
      ∀ i, (s.savePps raw).slotAt i = if i = s.widx + 1#4 then raw else s.slotAt i := by
  obtain ⟨-, hs⟩ | ⟨hf, hr, -⟩ := savePps_cases s raw
  · rw [hs]
    refine ⟨rfl, ?_, fun i => get_set_slot s _ i raw⟩
    show (if s.fill.toNat < 16 then s.fill + 1#5 else s.fill).toNat = _
    split
    · rw [BitVec.toNat_add, BitVec.toNat_ofNat]
      omega
    · rfl
  · exact absurd hnew (not_or.2 ⟨hf, not_not.2 hr⟩)

/-- The fill count stays or goes up by one, and stops at 16 (R34). -/
theorem savePps_fill (s : State) (raw : Word) :
    s.fill.toNat ≤ (s.savePps raw).fill.toNat ∧ (s.savePps raw).fill.toNat ≤ s.fill.toNat + 1 ∧
      (s.fill.toNat ≤ ringCap → (s.savePps raw).fill.toNat ≤ ringCap) := by
  obtain ⟨hnew, -⟩ | ⟨-, -, hs⟩ := savePps_cases s raw
  · obtain ⟨-, hfill, -⟩ := savePps_stores hnew
    simp only [ringCap]
    split at hfill <;> omega
  · simp [hs]

/-- Going back from the newest entry after a store, one step further than before it. -/
theorem index_back (w : BitVec 4) (k : Nat) : w + 1#4 - BitVec.ofNat 4 (k + 1) = w - BitVec.ofNat 4 k := by
  rw [BitVec.ofNat_add]
  bv_omega

/-- Fewer than 16 steps back from an index are at another one. -/
theorem index_back_ne (w : BitVec 4) {k : Nat} (h0 : 0 < k) (h : k < 16) : w - BitVec.ofNat 4 k ≠ w := by
  bv_omega

/-! ## The ranges (R37) -/

theorem failureCode_le_seven (f : Failure) : (failureCode f).toNat ≤ 7 := by
  cases f <;> decide

theorem clearBuffer_rangesOk {s : State} (h : s.RangesOk) : s.clearBuffer.RangesOk :=
  { h with
    cursor_le_size := le_refl 0
    size_le_cap := Nat.zero_le _
    count_le_max := Nat.zero_le _ }

theorem rangesOk_keptByUpdates : KeptByUpdates State.RangesOk where
  takeRequest _ _ h := { h with }
  finish _ _ h := { h with status_le_seven := Nat.zero_le _ }
  fail _ f h := { h with status_le_seven := failureCode_le_seven f }
  countCycle _ h := { h with }
  tsUpdate _ _ _ h := { h with }
  savePps s raw h :=
    { cursor_le_size := by simpa using h.cursor_le_size
      size_le_cap := by simpa using h.size_le_cap
      count_le_max := by simpa using h.count_le_max
      fill_le_cap := (savePps_fill s raw).2.2 h.fill_le_cap
      status_le_seven := by simpa using h.status_le_seven }
  clearBuffer _ h := clearBuffer_rangesOk h
  fetch s data hd h := by
    obtain hf | ⟨d, -, hf⟩ | ⟨d, n, hl, hw, hf⟩ := fetch_state_cases Config.board.layout s hd <;> rw [hf]
    · exact clearBuffer_rangesOk h
    · exact { clearBuffer_rangesOk h with }
    · exact
        { h with
          cursor_le_size := Nat.zero_le _
          size_le_cap := (load_size_toNat s.clearBuffer hl).trans_le hl
          count_le_max := by
            have hn := walk_le_packetsMax hl hw
            exact (count_toNat hn).trans_le hn }
  popped s p r _ hp h :=
    { h with
      cursor_le_size := (popped_cursor_toNat hp).trans_le (parse_ok_le hp).1
      count_le_max := by
        rw [popped_packetCount_toNat]
        exact (Nat.sub_le _ 1).trans h.count_le_max }

/-- Settles O9: each single update keeps the ranges; the walk's bound of 23 bytes a record gives the packet
count's (R8). -/
theorem stepKeepsTheRanges : Obligations.StepKeepsTheRanges :=
  fun _ _ hs h => rangesOk_keptByUpdates.step hs h

/-! ## The canonical form of the buffer memory (log 4) -/

theorem load_canonical {s : State} {d : List Byte} (hd : d.length ≤ bufCap) (h : s.BufferCanonical) :
    (s.load d).BufferCanonical := memWriteAll_wf (by omega) h

theorem bufferCanonical_keptByUpdates : KeptByUpdates State.BufferCanonical where
  takeRequest _ _ h := h
  finish _ _ h := h
  fail _ _ h := h
  countCycle _ h := h
  tsUpdate _ _ _ h := h
  savePps s raw h := by simpa [State.BufferCanonical] using h
  clearBuffer _ h := h
  fetch s data hd h := by
    obtain hf | ⟨d, hl, hf⟩ | ⟨d, n, hl, -, hf⟩ := fetch_state_cases Config.board.layout s hd <;> rw [hf]
    · exact h
    · exact load_canonical (s := s.clearBuffer) hl h
    · exact load_canonical (s := s.clearBuffer) hl h
  popped _ _ _ _ _ h := h

/-- Settles O10: a fetch alone writes the memory, with writes that keep the form. -/
theorem stepKeepsTheBufferCanonical : Obligations.StepKeepsTheBufferCanonical :=
  fun _ _ hs h => bufferCanonical_keptByUpdates.step hs h

/-! ## Neighbouring ring entries (R35) -/

theorem distinct_congr {s t : State} (hslot : t.slot = s.slot) (hwidx : t.widx = s.widx) (hfill : t.fill = s.fill)
    (h : s.RingDistinct) : t.RingDistinct := by
  intro k hk
  rw [hfill] at hk
  simpa only [State.slotAt, hslot, hwidx] using h k hk

/-- A snapshot is stored only where it differs from the newest entry; every older pair was one before, as long as
the ring has not come round. -/
theorem savePps_distinct {s : State} (raw : Word) (hf : s.fill.toNat ≤ ringCap) (h : s.RingDistinct) :
    (s.savePps raw).RingDistinct := by
  obtain ⟨hnew, -⟩ | ⟨-, -, hs⟩ := savePps_cases s raw
  · obtain ⟨-, hstep, hcap⟩ := savePps_fill s raw
    obtain ⟨hwidx, -, hslot⟩ := savePps_stores hnew
    have hcap := hcap hf
    intro k hk
    rw [hwidx, hslot, hslot]
    cases k with
    | zero =>
      have hfill : s.fill ≠ 0#5 := fun h0 => by simp [h0] at hstep; omega
      have hback : s.widx + 1#4 - BitVec.ofNat 4 0 - 1#4 = s.widx := by bv_omega
      have hne : s.widx ≠ s.widx + 1#4 := by bv_omega
      rw [hback, if_pos (BitVec.sub_zero _), if_neg hne]
      exact hnew.resolve_left hfill
    | succ j =>
      have hne (k : Nat) (h0 : 0 < k) (h16 : k < 16) := index_back_ne (s.widx + 1#4) h0 h16
      have hprev : s.widx + 1#4 - BitVec.ofNat 4 (j + 1) - 1#4 = s.widx + 1#4 - BitVec.ofNat 4 (j + 2) := by
        rw [BitVec.ofNat_add (x := j) (y := 2), BitVec.ofNat_add]
        bv_omega
      simp only [ringCap] at hcap
      rw [if_neg (hne (j + 1) (by omega) (by omega)), hprev, if_neg (hne (j + 2) (by omega) (by omega)),
        ← hprev, index_back]
      exact h j (by omega)
  · rwa [hs]

/-- The ring needs its fill count in range, so the two are kept together. -/
theorem rangesOk_and_ringDistinct_keptByUpdates : KeptByUpdates fun s => s.RangesOk ∧ s.RingDistinct where
  takeRequest s rest h := ⟨rangesOk_keptByUpdates.takeRequest s rest h.1, h.2⟩
  finish s r h := ⟨rangesOk_keptByUpdates.finish s r h.1, h.2⟩
  fail s f h := ⟨rangesOk_keptByUpdates.fail s f h.1, h.2⟩
  countCycle s h := ⟨rangesOk_keptByUpdates.countCycle s h.1, h.2⟩
  tsUpdate s p i h := ⟨rangesOk_keptByUpdates.tsUpdate s p i h.1, h.2⟩
  savePps s raw h :=
    ⟨rangesOk_keptByUpdates.savePps s raw h.1, savePps_distinct raw h.1.fill_le_cap h.2⟩
  clearBuffer s h := ⟨rangesOk_keptByUpdates.clearBuffer s h.1, h.2⟩
  fetch s data hd h := by
    refine ⟨rangesOk_keptByUpdates.fetch s data hd h.1, ?_⟩
    obtain ⟨-, -, hslot, hwidx, hfill, -, -⟩ := fetch_frame Config.board.layout s data
    exact distinct_congr hslot hwidx hfill h.2
  popped s p r hb hp h := ⟨rangesOk_keptByUpdates.popped s p r hb hp h.1, h.2⟩

/-- Settles O11: PPS_SAVE alone writes the ring, and stores nothing beside its like. -/
theorem stepKeepsNeighbouringEntriesDistinct : Obligations.StepKeepsNeighbouringEntriesDistinct :=
  fun _ _ hr hs h => (rangesOk_and_ringDistinct_keptByUpdates.step ⟨hr, hs⟩ h).2

/-! ## The packet count (R27, R408) -/

/-- The walk at a complete record: it counts that record and goes on behind it. -/
theorem walk_of_complete {l : RecordLayout} {rd : Nat → Byte} {size idx n m : Nat}
    (hf : frameAt l rd size idx = .complete n m) :
    walk l rd size size idx 0 = (walk l rd size size (idx + recLen n m) 0).map (· + 1) := by
  have hle := (frameAt_eq_complete.1 hf).2.2.2.2
  have hpos : 0 < recLen n m := by simp only [recLen, headLen]; omega
  obtain ⟨fuel, rfl⟩ : ∃ fuel, size = fuel + 1 := ⟨size - 1, by omega⟩
  calc walk l rd (fuel + 1) (fuel + 1) idx 0
      = walk l rd (fuel + 1) fuel (idx + recLen n m) 1 := by
        rw [walk, if_pos (by omega), hf]
    _ = walk l rd (fuel + 1) (fuel + 1) (idx + recLen n m) 1 :=
        walk_fuel l rd _ _ _ _ _ (by omega) (by omega)
    _ = _ := walk_count l rd _ _ _ 1

/-- Behind the record that a pop returns, the walk counts one packet less. -/
theorem popped_framed {s : State} {p : DecodedPacket} {r : Nat} (hp : s.parse Config.board.layout = .ok (p, r))
    (h : s.Framed) : (s.popped r).Framed := by
  obtain ⟨n, m, hf, rfl, -⟩ := parse_eq_ok.1 hp
  unfold State.Framed at h ⊢
  rw [walk_of_complete hf, Option.map_eq_some_iff] at h
  obtain ⟨k, hk, hcount⟩ := h
  rw [popped_cursor_toNat hp, popped_packetCount_toNat, State.popped_byte, State.popped_size, hk]
  congr 1
  omega

theorem framed_congr {s t : State} (hbuf : t.buf = s.buf) (hsize : t.size = s.size) (hcursor : t.cursor = s.cursor)
    (hcount : t.packetCount = s.packetCount) (h : s.Framed) : t.Framed := by
  have hbyte : t.byte = s.byte := by
    funext a
    simp only [State.byte, hbuf]
  simpa only [State.Framed, hbyte, hsize, hcursor, hcount] using h

theorem framed_keptByUpdates : KeptByUpdates State.Framed where
  takeRequest _ _ h := h
  finish _ _ h := h
  fail _ _ h := h
  countCycle _ h := h
  tsUpdate _ _ _ h := h
  savePps _ _ h := framed_congr (by simp) (by simp) (by simp) (by simp) h
  clearBuffer _ _ := framed_of_size_zero rfl rfl
  fetch s data hd _ := by
    obtain hf | ⟨d, -, hf⟩ | ⟨d, n, hl, hw, hf⟩ := fetch_state_cases Config.board.layout s hd <;> rw [hf]
    · exact framed_of_size_zero rfl rfl
    · exact framed_of_size_zero rfl rfl
    · have hsize := load_size_toNat s.clearBuffer hl
      rw [← hsize] at hw
      exact hw.trans (congrArg some (count_toNat (walk_le_packetsMax hl (hsize ▸ hw))).symm)
  popped _ _ _ _ hp h := popped_framed hp h

/-- Settles O12: a fetch stores what its walk counts, a pop moves the cursor over one record of the walk. -/
theorem stepKeepsPacketCountExact : Obligations.StepKeepsPacketCountExact :=
  fun _ _ _ _ hs h => framed_keptByUpdates.step hs h

/-! ## The fill count (R34) -/

theorem fill_ge_keptByUpdates (n : Nat) : KeptByUpdates fun s => n ≤ s.fill.toNat where
  takeRequest _ _ h := h
  finish _ _ h := h
  fail _ _ h := h
  countCycle _ h := h
  tsUpdate _ _ _ h := h
  savePps s raw h := h.trans (savePps_fill s raw).1
  clearBuffer _ h := h
  fetch s data _ h := by
    obtain ⟨-, -, -, -, hfill, -, -⟩ := fetch_frame Config.board.layout s data
    rwa [hfill]
  popped _ _ _ _ _ h := h

/-- Settles O13: a bound below the fill count is kept, the count before the step among them. -/
theorem fillCountNeverDecreases : Obligations.FillCountNeverDecreases :=
  fun s _ h => (fill_ge_keptByUpdates s.fill.toNat).step (le_refl _) h

/-! ## Which operation writes which register -/

/-- PKT_ASM writes what a pop and a discard write: no byte, no domain, no slot. -/
theorem assemble_frame {c : Config} {s u : State} {live : Word} {e : Except Failure NormalizedRxRecord}
    (h : s.assemble c live = .next (u, e)) :
    u.buf = s.buf ∧ u.inst = s.inst ∧ u.pps = s.pps ∧ u.slot = s.slot ∧ u.widx = s.widx ∧ u.fill = s.fill ∧
      u.cycles = s.cycles ∧ u.port = s.port := by
  obtain ⟨-, ho⟩ | ⟨-, ⟨_, -, ho⟩ | ⟨_, _, -, -, ho⟩ | ⟨_, _, _, -, -, ho⟩ | ⟨_, _, _, _, -, -, -, ho⟩ |
    ⟨_, _, _, _, -, -, -, ho⟩⟩ := assemble_cases h
  all_goals cases ho
  all_goals exact ⟨rfl, rfl, rfl, rfl, rfl, rfl, rfl, rfl⟩

/-- RECEIVE's loop leaves the host's requests alone (log 1). -/
theorem receiveLoop_port {c : Config} {lives : List Word} {s u : State} {out o : List NormalizedRxRecord}
    (h : s.receiveLoop c lives out = .next (u, o)) : u.port = s.port := by
  refine receiveLoop_keeps (P := fun u => u.port = s.port) (fun a b live e ha hab => ?_) h rfl
  obtain ⟨-, -, -, -, -, -, -, hport⟩ := assemble_frame hab
  exact hport.trans ha

/-- The registers outside an operation's own are as before. -/
def KeepsForeignRegisters (i : Instr) (s t : State) : Prop :=
  (i.opcode ∉ [Opcode.bufFetch, .receive] → t.buf = s.buf) ∧
  (i.opcode ∉ [Opcode.bufClear, .bufFetch, .pktAsm, .receive] → t.size = s.size) ∧
  (i.opcode ∉ [Opcode.bufClear, .bufFetch, .bufPop, .pktAsm, .receive] →
    t.cursor = s.cursor ∧ t.packetCount = s.packetCount) ∧
  (i.opcode ∉ [Opcode.tsUpdate, .cntSample, .receive] → t.inst = s.inst ∧ t.pps = s.pps) ∧
  (i.opcode ∉ [Opcode.ppsSave, .cntSample, .receive] → t.slot = s.slot ∧ t.widx = s.widx ∧ t.fill = s.fill) ∧
  (i.opcode ≠ .receive → t.cycles = s.cycles) ∧
  t.port = s.port

theorem writes_keepsForeignRegisters {i : Instr} {s u : State} (h : Writes i s u) :
    KeepsForeignRegisters i s u := by
  unfold KeepsForeignRegisters
  cases h with
  | nothing => simp
  | tsUpdate p i => simp [Instr.opcode]
  | cntSample pair => simp [Instr.opcode]
  | ppsSave raw => simp [Instr.opcode]
  | bufClear => simp [Instr.opcode]
  | bufFetch len1 len2 data =>
    obtain ⟨hinst, hpps, hslot, hwidx, hfill, hcycles, hport⟩ := fetch_frame Config.board.layout s data
    simp [Instr.opcode, -board_layout, hinst, hpps, hslot, hwidx, hfill, hcycles, hport]
  | bufPop => simp [Instr.opcode]
  | pktAsm live ha =>
    obtain ⟨hbuf, hinst, hpps, hslot, hwidx, hfill, hcycles, hport⟩ := assemble_frame ha
    simp [Instr.opcode, hbuf, hinst, hpps, hslot, hwidx, hfill, hcycles, hport]
  | receive _ _ data pair _ _ _ hl =>
    obtain ⟨-, -, -, -, -, -, hport⟩ := fetch_frame Config.board.layout s data
    have hloop := receiveLoop_port hl
    rw [State.sampleCounters_port, hport] at hloop
    simp [Instr.opcode, hloop]

/-- Settles O14: what an operation writes is among its own registers, and STATUS and the results are none of
those. -/
theorem registersAreWrittenOnlyByTheirOperations : Obligations.RegistersAreWrittenOnlyByTheirOperations := by
  intro i s t h
  obtain ⟨u, hw, hend⟩ := exec_writes h
  have hu : KeepsForeignRegisters i s u := writes_keepsForeignRegisters hw
  obtain ⟨r, rfl⟩ | ⟨f, rfl⟩ := hend
  · exact hu
  · exact hu

/-! ## Sixteen snapshots (R36) -/

theorem decode_encode_ppsSave (raw : Word) : decode (encode (.ppsSave raw)) = .ok (.ppsSave raw) := by
  refine decode_eq_ok.2 ⟨.ppsSave, opcodeOf_code .ppsSave, ?_, rfl⟩
  simp only [encode, Instr.operands, decodeOperands, narrowNum_toNat]
  rfl

/-- The ring after the first `n` of sixteen snapshots: slot 1 on. -/
structure HoldsFirst (v : Vector Word 16) (n : Nat) (s : State) : Prop where
  fill : s.fill.toNat = n
  widx : s.widx = BitVec.ofNat 4 n
  slots : ∀ k, (h : k < 16) → k < n → s.slotAt (BitVec.ofNat 4 (k + 1)) = v[k]

theorem holdsFirst_savePps {v : Vector Word 16} (hv : ∀ k, (h : k < 15) → v[k] ≠ v[k + 1]) {n : Nat} {s : State}
    (hn : n < 16) (h : HoldsFirst v n s) : HoldsFirst v (n + 1) (s.savePps v[n]) := by
  have hnew : s.fill = 0#5 ∨ v[n] ≠ s.slotAt s.widx := by
    cases n with
    | zero => exact .inl (BitVec.eq_of_toNat_eq h.fill)
    | succ j =>
      rw [h.widx, h.slots j (by omega) (by omega)]
      exact .inr (hv j (by omega)).symm
  have hindex : s.widx + 1#4 = BitVec.ofNat 4 (n + 1) := by rw [h.widx, BitVec.ofNat_add]
  obtain ⟨hwidx, hfill, hslot⟩ := savePps_stores hnew
  refine ⟨by rw [hfill, h.fill, if_pos hn], hwidx.trans hindex, fun k hk hkn => ?_⟩
  rw [hslot, hindex]
  by_cases hkn' : k = n
  · subst hkn'
    rw [if_pos rfl]
  · have hne : BitVec.ofNat 4 (k + 1) ≠ BitVec.ofNat 4 (n + 1) := by bv_omega
    rw [if_neg hne]
    exact h.slots k hk (by omega)

/-- The step that takes the next snapshot. -/
theorem step_holdsFirst {v : Vector Word 16} (hv : ∀ k, (h : k < 15) → v[k] ≠ v[k + 1]) {n : Nat} {s : State}
    {rest : List Request} (hn : n < 16) (h : HoldsFirst v n s) (hp : s.port = encode (.ppsSave v[n]) :: rest) :
    ∃ u, step s = .next u ∧ HoldsFirst v (n + 1) u ∧ u.port = rest := by
  have hstep := step_of_decode_ok hp (decode_encode_ppsSave v[n])
  have hsave := holdsFirst_savePps hv (s := { s with port := rest }) hn ⟨h.fill, h.widx, h.slots⟩
  exact ⟨_, hstep, ⟨hsave.fill, hsave.widx, hsave.slots⟩, by simp⟩

theorem run_succ_of_step {m : Nat} {s u : State} (h : step s = .next u) :
    Host.Core.run Sys2Proof.core (m + 1) s = Host.Core.run Sys2Proof.core m u := by
  have hcore : Sys2Proof.core.step s = .next u := h
  simp only [Host.Core.run, hcore]

/-- The run over what is left of the sixteen snapshots. -/
theorem run_saves {v : Vector Word 16} (hv : ∀ k, (h : k < 15) → v[k] ≠ v[k + 1]) :
    ∀ (m n : Nat) (s : State), n + m = 16 → HoldsFirst v n s →
      s.port = (v.toList.drop n).map (fun raw => encode (.ppsSave raw)) →
      ∃ t : State, Host.Core.run Sys2Proof.core m s = .next t ∧ HoldsFirst v 16 t := by
  intro m
  induction m with
  | zero =>
    intro n s hn h _
    exact ⟨s, rfl, hn ▸ h⟩
  | succ m ih =>
    intro n s hn h hp
    have hlt : n < v.toList.length := by
      rw [Vector.length_toList]
      omega
    rw [List.drop_eq_getElem_cons hlt, List.map_cons, Vector.getElem_toList] at hp
    obtain ⟨u, hstep, hu, hport⟩ := step_holdsFirst hv (by omega) h hp
    obtain ⟨t, ht, hold⟩ := ih (n + 1) u (by omega) hu hport
    exact ⟨t, (run_succ_of_step hstep).trans ht, hold⟩

/-- Settles O27: each snapshot of the run is new to the ring and takes the next slot, the sixteenth slot 0. -/
theorem sixteenSavesFillTheRing : Obligations.SixteenSavesFillTheRing := by
  intro v hv
  obtain ⟨t, ht, hold⟩ := run_saves hv 16 0 { State.reset with port := _ } rfl
    ⟨rfl, rfl, fun _ _ h => absurd h (Nat.not_lt_zero _)⟩ rfl
  exact ⟨t, ht, BitVec.eq_of_toNat_eq hold.fill, hold.widx, fun k h => hold.slots k h h⟩

end Sys2Proof.Machine
end

section
/-! Proofs of the family `10_state.md`: what an operation reads (R24, R42, R43, R66). The readers of the buffer take
their bytes below `size`, those of the ring their slots among the stored ones, and so states that are `Alike` stay
so. -/

namespace Sys2Proof.Machine

open Sys2Proof.Params

/-! ## Reading the buffer below a bound -/

theorem leNat_congr {rd rd' : Nat → Byte} : ∀ {n a : Nat}, (∀ i, a ≤ i → i < a + n → rd i = rd' i) →
    leNat rd a n = leNat rd' a n := by
  intro n
  induction n with
  | zero => intros; rfl
  | succ n ih =>
    intro a h
    rw [leNat, leNat, h a (le_refl a) (by omega), ih fun i hi hi' => h i (by omega) (by omega)]

theorem bytesAt_congr {rd rd' : Nat → Byte} : ∀ {n a : Nat}, (∀ i, a ≤ i → i < a + n → rd i = rd' i) →
    bytesAt rd a n = bytesAt rd' a n := by
  intro n
  induction n with
  | zero => intros; rfl
  | succ n ih =>
    intro a h
    rw [bytesAt, bytesAt, h a (le_refl a) (by omega), ih fun i hi hi' => h i (by omega) (by omega)]

section Below

variable {rd rd' : Nat → Byte} {size : Nat}

/-- A field that ends below the bound reads bytes below the bound only. -/
theorem fieldNat_congr {l : RecordLayout} {c n m : Nat} {f : Field} (h : ∀ a, a < size → rd a = rd' a)
    (hf : fieldEnd l c n m f ≤ size) : fieldNat l rd c n m f = fieldNat l rd' c n m f := by
  unfold fieldEnd at hf
  rw [fieldNat, fieldNat, leNat_congr fun i _ hi => h i (by omega)]

/-- What stands at an offset depends on the bytes below `size` only: each read follows the check that its field
ends there (R66). -/
theorem frameAt_congr (l : RecordLayout) (c : Nat) (h : ∀ a, a < size → rd a = rd' a) :
    frameAt l rd size c = frameAt l rd' size c := by
  unfold frameAt
  by_cases hs : size < fieldEnd l c 0 0 .sync0 ∨ size < fieldEnd l c 0 0 .sync1
  · rw [if_pos hs, if_pos hs]
  have hsync : syncAt l rd c = syncAt l rd' c := by
    rw [syncAt, syncAt, fieldBits, fieldBits, fieldBits, fieldBits, fieldNat_congr (f := .sync0) h (by omega),
      fieldNat_congr (f := .sync1) h (by omega)]
  rw [if_neg hs, if_neg hs, hsync]
  by_cases hp : size < fieldEnd l c 0 0 .payloadLen
  · simp only [if_pos hp]
  have hlen := fieldNat_congr (rd := rd) (rd' := rd') h (Nat.le_of_not_lt hp)
  simp only [hlen]
  by_cases hm : size < fieldEnd l c (fieldNat l rd' c 0 0 .payloadLen) 0 .numMetrics
  · simp only [if_pos hm]
  · simp only [fieldNat_congr (rd := rd) (rd' := rd') h (Nat.le_of_not_lt hm)]

theorem walk_congr (l : RecordLayout) (h : ∀ a, a < size → rd a = rd' a) : ∀ fuel idx count : Nat,
    walk l rd size fuel idx count = walk l rd' size fuel idx count := by
  intro fuel
  induction fuel with
  | zero => intros; rfl
  | succ fuel ih =>
    intro idx count
    simp only [walk, frameAt_congr l idx h, ih]

/-- Every field of the spec's table lies inside the record (R92, R93). -/
theorem fieldEnd_recordLayout_le (c n m : Nat) (f : Field) :
    fieldEnd recordLayout c n m f ≤ c + recLen n m := by
  cases f <;>
    simp only [fieldEnd, fieldOffset, fieldBytes, recordLayout, recLen, headLen, tailLen, metricBytes] <;> omega

variable {c n m : Nat} (h : ∀ a, a < size → rd a = rd' a) (hle : c + recLen n m ≤ size)

include h hle

theorem fieldNat_congr_of_record (f : Field) :
    fieldNat recordLayout rd c n m f = fieldNat recordLayout rd' c n m f :=
  fieldNat_congr h ((fieldEnd_recordLayout_le c n m f).trans hle)

theorem checksumOk_congr : checksumOk recordLayout rd c n m = checksumOk recordLayout rd' c n m := by
  have hbytes : bytesAt rd c (recLen n m - 1) = bytesAt rd' c (recLen n m - 1) :=
    bytesAt_congr fun i _ hi => h i (by omega)
  rw [checksumOk, checksumOk, hbytes, fieldBits, fieldBits, fieldNat_congr_of_record h hle]

/-- The decoded packet depends on the record's own bytes (R183). -/
theorem extract_congr : extract recordLayout rd c n m = extract recordLayout rd' c n m := by
  have hmetrics : fieldOffset recordLayout c n m .metric + metricBytes * m ≤ size := by
    simp only [fieldOffset, recordLayout, recLen, headLen, tailLen, metricBytes] at hle ⊢
    omega
  have hpayload : fieldOffset recordLayout c n m .payload + n ≤ size := by
    simp only [fieldOffset, recordLayout, recLen, headLen, tailLen, metricBytes] at hle ⊢
    omega
  simp only [extract, fieldBits, fieldFlag, fieldNat_congr_of_record h hle,
    bytesAt_congr fun i _ hi => h i (hi.trans_le hmetrics), bytesAt_congr fun i _ hi => h i (hi.trans_le hpayload)]

end Below

/-! ## Updates of states that are alike -/

/-- A slot that is stored after a snapshot and is not the snapshot's own was stored before it. -/
theorem slotStored_of_savePps {s : State} {raw : Word} {i : BitVec 4} (hwidx : (s.savePps raw).widx = s.widx + 1#4)
    (hi : (s.savePps raw).SlotStored i) (hne : i ≠ s.widx + 1#4) : s.SlotStored i := by
  have hfill := (savePps_fill s raw).2.1
  simp only [State.SlotStored, hwidx] at hi ⊢
  have hback : (s.widx + 1#4 - i).toNat = (s.widx - i).toNat + 1 := by bv_omega
  omega

namespace State.Alike

variable {s t : State}

theorem takeRequest (h : s.Alike t) (rest : List Request) :
    State.Alike { s with port := rest } { t with port := rest } := { h with port := rfl }

theorem clearBuffer (h : s.Alike t) : s.clearBuffer.Alike t.clearBuffer :=
  { h with
    size := rfl
    cursor := rfl
    packetCount := rfl
    bytes := fun _ ha => absurd ha (Nat.not_lt_zero _) }

theorem popped (h : s.Alike t) (r : Nat) : (s.popped r).Alike (t.popped r) :=
  { h with
    cursor := by simp only [State.popped_cursor, h.cursor]
    packetCount := by simp only [State.popped_packetCount, h.packetCount] }

theorem countCycle (h : s.Alike t) : s.countCycle.Alike t.countCycle :=
  { h with cycles := congrArg (· + 1) h.cycles }

theorem tsUpdate (h : s.Alike t) (p i : Raw27) : (s.tsUpdate p i).Alike (t.tsUpdate p i) :=
  { h with
    inst := congrArg (TimestampDomain.update · i) h.inst
    pps := congrArg (TimestampDomain.update · p) h.pps }

/-- A load determines the bytes below the new `size`. -/
theorem load (h : s.Alike t) (hs : s.BufferCanonical) (ht : t.BufferCanonical) {d : List Byte}
    (hd : d.length ≤ bufCap) : (s.load d).Alike (t.load d) :=
  { h with
    size := rfl
    bytes := fun a ha => by
      rw [load_size_toNat s hd] at ha
      rw [load_byte hd hs, load_byte hd ht, List.getElem?_eq_getElem ha]
      rfl }

/-- The newest entry of a ring that has one is a stored one. -/
theorem newest_eq (h : s.Alike t) (hf : s.fill ≠ 0#5) : s.slotAt s.widx = t.slotAt t.widx := by
  have hstored : s.SlotStored s.widx := by
    simp only [State.SlotStored, BitVec.sub_self]
    exact Nat.pos_of_ne_zero fun h0 => hf (BitVec.eq_of_toNat_eq h0)
  rw [← h.widx]
  exact h.slots _ hstored

theorem savePps (h : s.Alike t) (raw : Word) : (s.savePps raw).Alike (t.savePps raw) := by
  by_cases hnew : s.fill = 0#5 ∨ raw ≠ s.slotAt s.widx
  · have hnew' : t.fill = 0#5 ∨ raw ≠ t.slotAt t.widx := by
      rw [← h.fill]
      by_cases hf : s.fill = 0#5
      · exact .inl hf
      · exact .inr (h.newest_eq hf ▸ hnew.resolve_left hf)
    obtain ⟨hwidx, hfill, hslot⟩ := savePps_stores hnew
    obtain ⟨hwidx', hfill', hslot'⟩ := savePps_stores hnew'
    exact
      { size := by simp [h.size]
        cursor := by simp [h.cursor]
        packetCount := by simp [h.packetCount]
        inst := by simp [h.inst]
        pps := by simp [h.pps]
        widx := by rw [hwidx, hwidx', h.widx]
        fill := BitVec.eq_of_toNat_eq (by rw [hfill, hfill', h.fill])
        port := by simp [h.port]
        cycles := by simp [h.cycles]
        bytes := by simpa [State.byte] using h.bytes
        slots := fun i hi => by
          rw [hslot, hslot', ← h.widx]
          by_cases hne : i = s.widx + 1#4
          · rw [if_pos hne, if_pos hne]
          · rw [if_neg hne, if_neg hne]
            exact h.slots i (slotStored_of_savePps hwidx hi hne) }
  · obtain ⟨hf, hr⟩ := not_or.1 hnew
    obtain ⟨hold, -⟩ | ⟨-, -, hs⟩ := savePps_cases s raw
    · exact absurd hold hnew
    obtain ⟨hold, -⟩ | ⟨-, -, ht⟩ := savePps_cases t raw
    · rw [← h.fill, ← h.newest_eq hf] at hold
      exact absurd hold hnew
    rwa [hs, ht]

theorem sampleCounters (h : s.Alike t) (l : PairLayout) (pair : Vector Byte 8) :
    (s.sampleCounters l pair).Alike (t.sampleCounters l pair) := (h.savePps _).tsUpdate _ _

/-! ## Readers of states that are alike -/

theorem domain_eq (h : s.Alike t) (d : DomainName) : s.domain d = t.domain d := by
  cases d with
  | inst => exact h.inst
  | pps => exact h.pps

theorem pktExpand_eq (h : s.Alike t) (raw : Raw27) : s.pktExpand raw = t.pktExpand raw := by
  rw [State.pktExpand, State.pktExpand, h.inst]

theorem sampledUs_eq (h : s.Alike t) (l : PairLayout) (pair : Vector Byte 8) :
    s.sampledUs l pair = t.sampledUs l pair := by
  rw [State.sampledUs, State.sampledUs, h.inst, h.pps]

theorem drawLives_eq (h : s.Alike t) (lives : List Word) : s.drawLives lives = t.drawLives lives := by
  rw [State.drawLives, State.drawLives, h.packetCount, h.cycles]

theorem parse_eq (h : s.Alike t) : s.parse Config.board.layout = t.parse Config.board.layout := by
  simp only [board_layout, State.parse, ← h.size, ← h.cursor, ← frameAt_congr recordLayout s.cursor.toNat h.bytes]
  cases hf : frameAt recordLayout s.byte s.size.toNat s.cursor.toNat with
  | noSync => rfl
  | incomplete => rfl
  | complete n m =>
    have hle := (frameAt_eq_complete.1 hf).2.2.2.2
    simp only [checksumOk_congr h.bytes hle, extract_congr h.bytes hle]

/-- In a full ring every slot is a stored one. -/
theorem slot_eq (h : s.Alike t) (hf : ¬ s.fill < 16#5) : s.slot = t.slot := by
  have hfull : 16 ≤ s.fill.toNat := Nat.le_of_not_lt hf
  refine Vector.ext fun i hi => ?_
  have hstored : s.SlotStored (BitVec.ofFin ⟨i, hi⟩) := (BitVec.isLt _).trans_le hfull
  exact h.slots _ hstored

/-- FTIME_CALC reads the ring after it has found it full (R224). -/
theorem fineTime_eq (h : s.Alike t) (c : Config) (metrics : List Byte) (m : Byte) (rawTs : Word) (sf : Nat)
    (f : Word) (fe : ℚ) (live : Word) :
    s.fineTime c metrics m rawTs sf f fe live = t.fineTime c metrics m rawTs sf f fe live := by
  unfold State.fineTime
  rw [← h.fill]
  by_cases hf : s.fill < 16#5
  · rw [if_pos hf, if_pos hf]
  · simp only [State.reference, State.findEdge, State.interval, State.slotAt, h.slot_eq hf, h.widx]

theorem buildRecord_eq (h : s.Alike t) (c : Config) (ch : Fin 10) (freqHz : Nat) (p : DecodedPacket)
    (live : Word) : buildRecord c s ch freqHz p live = buildRecord c t ch freqHz p live := by
  simp only [buildRecord, fineOverlay, h.pktExpand_eq, h.fineTime_eq]

end State.Alike

/-! ## Operations on states that are alike -/

/-- A state and what goes with it, up to what no operation can tell apart. -/
def PairAlike {β : Type} (a b : State × β) : Prop := a.1.Alike b.1 ∧ a.2 = b.2

/-- The same kind of outcome, with related values or the same reason. -/
inductive SameOutcome {α : Type} (R : α → α → Prop) :
    Host.Outcome α Fault Refusal → Host.Outcome α Fault Refusal → Prop where
  | next {a b : α} (h : R a b) : SameOutcome R (.next a) (.next b)
  | fault (f : Fault) : SameOutcome R (.fault f) (.fault f)
  | refused (r : Refusal) : SameOutcome R (.refused r) (.refused r)

/-- A precondition is of the operands, so that alike states meet it or break it together. -/
theorem alikeOutcome_guarded {p : Prop} [Decidable p] {r : Reject} {o o' : Host.Outcome State Fault Refusal}
    (h : p → AlikeOutcome o o') :
    AlikeOutcome (if p then o else refusePrecondition r) (if p then o' else refusePrecondition r) := by
  by_cases hp : p
  · rw [if_pos hp, if_pos hp]
    exact h hp
  · rw [if_neg hp, if_neg hp]
    exact rfl

namespace State.Alike

variable {s t : State}

theorem fetch (h : s.Alike t) (hs : s.BufferCanonical) (ht : t.BufferCanonical) (l : RecordLayout)
    {data : List Byte} (hd : data.length ≤ bufCap) : PairAlike (s.fetch l data) (t.fetch l data) := by
  unfold State.fetch
  by_cases hmin : data.length < minLen
  · simp only [if_pos hmin]
    exact ⟨h.clearBuffer, rfl⟩
  simp only [if_neg hmin]
  cases findSync data with
  | none => exact ⟨h.clearBuffer, rfl⟩
  | some k =>
    have hlen : (data.drop k).length ≤ bufCap := by
      rw [List.length_drop]
      exact (Nat.sub_le _ k).trans hd
    have hload := h.clearBuffer.load hs ht hlen
    have hbytes := hload.bytes
    rw [load_size_toNat _ hlen, List.length_drop] at hbytes
    simp only [walk_congr l hbytes]
    cases walk l (t.clearBuffer.load (data.drop k)).byte (data.length - k) (data.length - k) 0 0 with
    | none => exact ⟨hload.clearBuffer, rfl⟩
    | some n => exact ⟨{ hload with packetCount := rfl }, rfl⟩

theorem assemblePacket (h : s.Alike t) (c : Config) (p : DecodedPacket) (live : Word) :
    SameOutcome PairAlike (s.assemblePacket c p live) (t.assemblePacket c p live) := by
  unfold State.assemblePacket
  by_cases hch : p.channel.toNat < 10
  · simp only [dif_pos hch]
    cases c.centreHz ⟨p.channel.toNat, hch⟩ with
    | none => exact .refused _
    | some freqHz =>
      cases crc16Rejects c (c.ifMod.get ⟨p.channel.toNat, hch⟩) p with
      | true => exact .next ⟨h, rfl⟩
      | false => exact .next ⟨h, congrArg Except.ok (h.buildRecord_eq c _ freqHz p live)⟩
  · simp only [dif_neg hch]
    exact .next ⟨h.clearBuffer, rfl⟩

theorem assemble (h : s.Alike t) (live : Word) :
    SameOutcome PairAlike (s.assemble Config.board live) (t.assemble Config.board live) := by
  unfold State.assemble State.withBuffer
  rw [← h.size, ← h.parse_eq]
  by_cases hb : s.size.toNat ≤ bufCap
  · rw [if_pos hb, if_pos hb]
    cases s.parse Config.board.layout with
    | error f => exact .next ⟨h.clearBuffer, rfl⟩
    | ok pr => exact (h.popped pr.2).assemblePacket Config.board pr.1 live
  · rw [if_neg hb, if_neg hb]
    exact .fault _

theorem receiveLoop : ∀ (lives : List Word) {s t : State} (out : List NormalizedRxRecord), s.Alike t →
    SameOutcome PairAlike (s.receiveLoop Config.board lives out) (t.receiveLoop Config.board lives out) := by
  intro lives
  induction lives with
  | nil => intro s t out h; exact .next ⟨h, rfl⟩
  | cons live lives ih =>
    intro s t out h
    simp only [State.receiveLoop, ← h.packetCount]
    by_cases hc : s.packetCount = 0#8
    · rw [if_pos hc, if_pos hc]
      exact .next ⟨h, rfl⟩
    · rw [if_neg hc, if_neg hc]
      have ha := h.assemble live
      generalize s.assemble Config.board live = o at ha ⊢
      generalize t.assemble Config.board live = o' at ha ⊢
      cases ha with
      | @next a b hab =>
        obtain ⟨u, e⟩ := a
        obtain ⟨v, e'⟩ := b
        obtain ⟨huv, rfl⟩ : u.Alike v ∧ e = e' := hab
        cases e with
        | ok r => exact ih (out ++ [r]) huv
        | error f => exact ih out huv
      | fault f => exact .fault f
      | refused r => exact .refused r

theorem finish (h : s.Alike t) {r r' : Option Result} (hr : r = r') :
    AlikeOutcome (.next (s.finish r)) (.next (t.finish r')) := ⟨{ h with }, rfl, hr⟩

theorem fail (h : s.Alike t) (f : Failure) : AlikeOutcome (.next (s.fail f)) (.next (t.fail f)) :=
  ⟨{ h with }, rfl, rfl⟩

theorem conclude (h : s.Alike t) {e e' : Except Failure Result} (he : e = e') :
    AlikeOutcome (s.conclude e) (t.conclude e') := by
  subst he
  cases e with
  | ok r => exact h.finish rfl
  | error f => exact h.fail f

theorem bufPopWith (h : s.Alike t) : AlikeOutcome (bufPopWith Config.board s) (bufPopWith Config.board t) := by
  unfold Machine.bufPopWith State.withBuffer
  rw [← h.size, ← h.parse_eq]
  by_cases hb : s.size.toNat ≤ bufCap
  · rw [if_pos hb, if_pos hb]
    cases s.parse Config.board.layout with
    | error f => exact h.fail f
    | ok pr => exact (h.popped pr.2).finish rfl
  · rw [if_neg hb, if_neg hb]
    exact rfl

theorem pktAsmWith (h : s.Alike t) (live : Word) :
    AlikeOutcome (pktAsmWith Config.board live s) (pktAsmWith Config.board live t) := by
  unfold Machine.pktAsmWith
  have ha := h.assemble live
  generalize s.assemble Config.board live = o at ha ⊢
  generalize t.assemble Config.board live = o' at ha ⊢
  cases ha with
  | next hab => exact hab.1.conclude (congrArg (Except.map Result.record) hab.2)
  | fault f => exact rfl
  | refused r => exact rfl

theorem receiveWith (h : s.Alike t) (hs : s.BufferCanonical) (ht : t.BufferCanonical) (len1 len2 : Half)
    (data : List Byte) (pair : Vector Byte 8) (lives : List Word) :
    AlikeOutcome (receiveWith Config.board len1 len2 data pair lives s)
      (receiveWith Config.board len1 len2 data pair lives t) := by
  refine alikeOutcome_guarded fun hl => ?_
  have hfetch := (h.fetch hs ht Config.board.layout (length_le_of_fetchLegal hl)).1
  have hsample := hfetch.sampleCounters Config.board.pairLayout pair
  have hloop := receiveLoop (((t.fetch Config.board.layout data).1.sampleCounters
    Config.board.pairLayout pair).drawLives lives) [] hsample
  dsimp only
  rw [hsample.drawLives_eq, hsample.sampledUs_eq]
  generalize State.receiveLoop _ _ ((s.fetch Config.board.layout data).1.sampleCounters _ _) [] = o at hloop ⊢
  generalize State.receiveLoop _ _ ((t.fetch Config.board.layout data).1.sampleCounters _ _) [] = o' at hloop ⊢
  cases hloop with
  | @next a b hab =>
    obtain ⟨u, out⟩ := a
    obtain ⟨v, out'⟩ := b
    obtain ⟨huv, rfl⟩ : u.Alike v ∧ out = out' := hab
    exact huv.countCycle.finish rfl
  | fault f => exact rfl
  | refused r => exact rfl

/-- Every operation treats states alike that are alike. -/
theorem exec (h : s.Alike t) (hs : s.BufferCanonical) (ht : t.BufferCanonical) (i : Instr) :
    AlikeOutcome (exec i s) (exec i t) := by
  cases i with
  | csum8 d => exact h.finish rfl
  | crc16 d => exact alikeOutcome_guarded fun _ => h.finish rfl
  | tsUpdate p i => exact (h.tsUpdate p i).finish rfl
  | tsExpand dom raw => exact h.finish (by rw [h.domain_eq])
  | tsPktexp raw => exact h.finish (by rw [h.pktExpand_eq])
  | cntSample pair =>
    have hsample := h.sampleCounters Config.board.pairLayout pair
    exact hsample.finish (by rw [hsample.sampledUs_eq])
  | ppsSave raw => exact (h.savePps raw).finish rfl
  | bufClear => exact h.clearBuffer.finish rfl
  | bufFetch len1 len2 data =>
    refine alikeOutcome_guarded fun hl => ?_
    obtain ⟨hstate, hresult⟩ := h.fetch hs ht Config.board.layout (length_le_of_fetchLegal hl)
    exact hstate.conclude (congrArg (Except.map Result.count) hresult)
  | bufPop => exact h.bufPopWith
  | toa bw sf cr nPre headerEn crcEn size => exact alikeOutcome_guarded fun _ => h.finish rfl
  | corrLegacy bw sf cr crcEn size => exact alikeOutcome_guarded fun _ => h.finish rfl
  | corrPrec bw sf cr crcEn size => exact alikeOutcome_guarded fun _ => h.finish rfl
  | notch f => exact h.finish rfl
  | ftimeCalc metrics m ts sf f fe live => exact alikeOutcome_guarded fun _ => h.conclude (by rw [h.fineTime_eq])
  | pktAsm live => exact h.pktAsmWith live
  | receive len1 len2 data pair lives => exact h.receiveWith hs ht len1 len2 data pair lives

end State.Alike

/-- A request that does not decode is refused by the precondition it breaks (R280). -/
theorem step_of_decode_error {s : State} {r : Request} {rest : List Request} {e : Reject}
    (hp : s.port = r :: rest) (hd : decode r = .error e) : step s = .refused (.precondition e) := by
  simp only [step, State.takeRequest, hp, hd]

/-- Settles O56: alike states hold the same oldest request, and run the same operation. -/
theorem unobservableStateStaysUnobserved : Obligations.UnobservableStateStaysUnobserved := by
  intro s t hs ht h hport
  obtain ⟨r, rest, hp⟩ := List.exists_cons_of_ne_nil hport
  have hp' : t.port = r :: rest := h.port ▸ hp
  cases hd : decode r with
  | error e =>
    rw [step_of_decode_error hp hd, step_of_decode_error hp' hd]
    exact rfl
  | ok i =>
    rw [step_of_decode_ok hp hd, step_of_decode_ok hp' hd]
    exact (h.takeRequest rest).exec hs ht i

end Sys2Proof.Machine
end

section
/-! Proofs of the family `30_encoding.md`: the command codes of R110's table and the operands beside them, and
what decoding and encoding are to each other (R110, R111, R114, R280). -/

namespace Sys2Proof.Machine

/-! ## The command codes (R110, R114) -/

/-- Each row of the table fixes all eight bits of the code, and names the operation that has this code. -/
theorem opcodeTable_rows : ∀ row ∈ opcodeTable, row.mask = 0xFF#8 ∧ row.bits = row.op.code := by
  decide

theorem opcodeOf_eq_some {code : Byte} {op : Opcode} : opcodeOf code = some op ↔ code = op.code := by
  constructor
  · intro h
    obtain ⟨row, hfind, rfl⟩ := Option.map_eq_some_iff.1 h
    obtain ⟨hmask, hbits⟩ := opcodeTable_rows row (List.mem_of_find?_eq_some hfind)
    have hmatch : code &&& row.mask = row.bits := by simpa using List.find?_some hfind
    calc code = code &&& 0xFF#8 := (BitVec.and_allOnes (w := 8)).symm
      _ = row.op.code := by rw [← hmask, hmatch, hbits]
  · rintro rfl
    exact opcodeOf_code op

theorem opcodeOf_eq_none {code : Byte} : opcodeOf code = none ↔ ∀ op : Opcode, code ≠ op.code := by
  simp [Option.eq_none_iff_forall_ne_some, opcodeOf_eq_some]

/-- U1: no other precondition is looked at where the code selects no operation. -/
theorem decode_of_opcodeOf_none {r : Request} (h : opcodeOf r.code = none) :
    decode r = .error (.unknownCommand r.code) := by
  simp only [decode, h]

/-- Settles O4: such a code selects no operation, so the request does not decode. -/
theorem unknownCommandCodesAreRefused : Obligations.UnknownCommandCodesAreRefused := by
  intro s r rest hp hcode
  exact step_of_decode_error hp (decode_of_opcodeOf_none (opcodeOf_eq_none.2 hcode))

/-! ## Operand values at their types (R111)

Each reading of an operand is the inverse of its writing: it succeeds with a value exactly on what that value
is written as. -/

theorem except_bind_eq_ok {ε α β : Type} {x : Except ε α} {f : α → Except ε β} {b : β} :
    (x >>= f) = .ok b ↔ ∃ a, x = .ok a ∧ f a = .ok b := by
  cases x <;> simp [bind, Except.bind]

theorem except_pure_eq_ok {ε α : Type} {a b : α} : (pure a : Except ε α) = .ok b ↔ a = b := by
  simp [pure, Except.pure]

theorem narrowNum_eq_ok_iff_toNat {w n : Nat} {e : Reject} {v : BitVec w} :
    narrowNum w n e = .ok v ↔ n = v.toNat := by
  constructor
  · intro h
    obtain ⟨hn, rfl⟩ := narrowNum_eq_ok.1 h
    exact (Nat.mod_eq_of_lt hn).symm
  · rintro rfl
    exact narrowNum_toNat v e

/-- The width 0 is left out: there -1 is read as the one value, which is written as 0. -/
theorem narrowInt_eq_ok_iff_toInt {w : Nat} {z : Int} {e : Reject} {v : BitVec w} (hw : 0 < w) :
    narrowInt w z e = .ok v ↔ z = v.toInt := by
  rw [narrowInt_eq_ok]
  constructor
  · rintro ⟨⟨hlo, hhi⟩, rfl⟩
    exact (BitVec.toInt_ofInt_eq_self hw hlo hhi).symm
  · rintro rfl
    exact ⟨⟨BitVec.le_toInt v, BitVec.toInt_lt⟩, BitVec.ofInt_toInt.symm⟩

theorem narrowNums_eq_ok {w : Nat} {e : Reject} {ns : List Nat} {vs : List (BitVec w)} :
    narrowNums w e ns = .ok vs ↔ ns = vs.map BitVec.toNat := by
  induction ns generalizing vs with
  | nil => simp [narrowNums, eq_comm]
  | cons n ns ih =>
    simp only [narrowNums, except_bind_eq_ok, except_pure_eq_ok, narrowNum_eq_ok_iff_toNat, ih]
    cases vs <;> simp

theorem narrowInts_eq_ok {w : Nat} {e : Reject} {zs : List Int} {vs : List (BitVec w)} (hw : 0 < w) :
    narrowInts w e zs = .ok vs ↔ zs = vs.map BitVec.toInt := by
  induction zs generalizing vs with
  | nil => simp [narrowInts, eq_comm]
  | cons z zs ih =>
    simp only [narrowInts, except_bind_eq_ok, except_pure_eq_ok, narrowInt_eq_ok_iff_toInt hw, ih]
    cases vs <;> simp

/-- The integers of an operation are 32 bits wide, the metrics 8. -/
theorem narrowInt_32_eq_ok {z : Int} {e : Reject} {v : Word} : narrowInt 32 z e = .ok v ↔ z = v.toInt :=
  narrowInt_eq_ok_iff_toInt (by decide)

theorem narrowInts_8_eq_ok {zs : List Int} {e : Reject} {vs : List Byte} :
    narrowInts 8 e zs = .ok vs ↔ zs = vs.map BitVec.toInt :=
  narrowInts_eq_ok (by decide)

/-! ## The operands of an operation (R110) -/

theorem decodeOperands_operands (i : Instr) : decodeOperands i.opcode i.operands = .ok i := by
  have hInt (v : Word) (e : Reject) : narrowInt 32 v.toInt e = .ok v := narrowInt_32_eq_ok.2 rfl
  have hInts (vs : List Byte) (e : Reject) : narrowInts 8 e (vs.map BitVec.toInt) = .ok vs :=
    narrowInts_8_eq_ok.2 rfl
  have hNums (vs : List Word) (e : Reject) : narrowNums 32 e (vs.map BitVec.toNat) = .ok vs :=
    narrowNums_eq_ok.2 rfl
  have hBytes (v : Vector Byte 8) (e : Reject) : exactBytes 8 v.toList e = .ok v := exactBytes_eq_ok.2 rfl
  cases i with
  | csum8 | crc16 | bufClear | bufPop => rfl
  | tsUpdate | tsExpand | tsPktexp | ppsSave | bufFetch | toa | corrLegacy | corrPrec | pktAsm =>
    simp only [Instr.opcode, Instr.operands, decodeOperands, narrowNum_toNat]
    rfl
  | cntSample =>
    simp only [Instr.opcode, Instr.operands, decodeOperands, hBytes]
    rfl
  | notch =>
    simp only [Instr.opcode, Instr.operands, decodeOperands, hInt]
    rfl
  | ftimeCalc =>
    simp only [Instr.opcode, Instr.operands, decodeOperands, hInts, narrowNum_toNat, hInt]
    rfl
  | receive =>
    simp only [Instr.opcode, Instr.operands, decodeOperands, narrowNum_toNat, hBytes, hNums]
    rfl

/-- What the operands of a request must be: those the operation they decode to is written with. -/
theorem decodeOperands_eq_ok {op : Opcode} {os : List Operand} {i : Instr} :
    decodeOperands op os = .ok i ↔ i.opcode = op ∧ i.operands = os := by
  constructor
  · intro h
    unfold decodeOperands at h
    split at h <;>
      simp only [except_bind_eq_ok, except_pure_eq_ok, Except.ok.injEq, reduceCtorEq,
        narrowNum_eq_ok_iff_toNat, narrowInt_32_eq_ok, narrowNums_eq_ok, narrowInts_8_eq_ok,
        exactBytes_eq_ok] at h
    next d => subst h; exact ⟨rfl, rfl⟩
    next d => subst h; exact ⟨rfl, rfl⟩
    next pps inst => obtain ⟨_, rfl, _, rfl, rfl⟩ := h; exact ⟨rfl, rfl⟩
    next dom raw => obtain ⟨_, rfl, rfl⟩ := h; exact ⟨rfl, rfl⟩
    next raw => obtain ⟨_, rfl, rfl⟩ := h; exact ⟨rfl, rfl⟩
    next pair => obtain ⟨_, rfl, rfl⟩ := h; exact ⟨rfl, rfl⟩
    next raw => obtain ⟨_, rfl, rfl⟩ := h; exact ⟨rfl, rfl⟩
    next => subst h; exact ⟨rfl, rfl⟩
    next len1 len2 data => obtain ⟨_, rfl, _, rfl, rfl⟩ := h; exact ⟨rfl, rfl⟩
    next => subst h; exact ⟨rfl, rfl⟩
    next bw sf cr nPre headerEn crcEn size => obtain ⟨_, rfl, _, rfl, rfl⟩ := h; exact ⟨rfl, rfl⟩
    next bw sf cr crcEn size => obtain ⟨_, rfl, _, rfl, rfl⟩ := h; exact ⟨rfl, rfl⟩
    next bw sf cr crcEn size => obtain ⟨_, rfl, _, rfl, rfl⟩ := h; exact ⟨rfl, rfl⟩
    next ifFreq => obtain ⟨_, rfl, rfl⟩ := h; exact ⟨rfl, rfl⟩
    next metrics m rawTs sf ifFreq freqError live =>
      obtain ⟨_, rfl, _, rfl, _, rfl, _, rfl, _, rfl, rfl⟩ := h; exact ⟨rfl, rfl⟩
    next live => obtain ⟨_, rfl, rfl⟩ := h; exact ⟨rfl, rfl⟩
    next len1 len2 data pair lives => obtain ⟨_, rfl, _, rfl, _, rfl, _, rfl, rfl⟩ := h; exact ⟨rfl, rfl⟩
  · rintro ⟨rfl, rfl⟩
    exact decodeOperands_operands i

/-! ## Decoding and encoding -/

/-- Decoding is the partial inverse of encoding: a request decodes to an operation exactly when it is that
operation's request and the operation keeps its preconditions. -/
theorem decode_eq_ok_iff_encode {r : Request} {i : Instr} :
    decode r = .ok i ↔ encode i = r ∧ i.WellFormed := by
  simp only [decode_eq_ok, opcodeOf_eq_some, decodeOperands_eq_ok]
  constructor
  · rintro ⟨_, hcode, ⟨rfl, hos⟩, hwf⟩
    exact ⟨congrArg₂ Request.mk hcode.symm hos, hwf⟩
  · rintro ⟨rfl, hwf⟩
    exact ⟨i.opcode, rfl, ⟨rfl, rfl⟩, hwf⟩

/-- Settles O1: the request of a well-formed operation is, for one, the encoding of it. -/
theorem decodeOfEncodeGivesTheOperation : Obligations.DecodeOfEncodeGivesTheOperation :=
  fun _ hwf => decode_eq_ok_iff_encode.2 ⟨rfl, hwf⟩

/-- Settles O2, the other direction of the inverse. -/
theorem encodeOfDecodeGivesTheRequest : Obligations.EncodeOfDecodeGivesTheRequest :=
  fun _ _ => decode_eq_ok_iff_encode.1

/-- Settles O3: each of the six requests is the encoding of its operation. -/
theorem commandWordsDecode : Obligations.CommandWordsDecode := by
  refine ⟨?_, ?_, ?_, ?_, ?_, ?_⟩
  all_goals exact decode_eq_ok_iff_encode.2 ⟨by decide, rfl⟩

end Sys2Proof.Machine
end

section
/-! Proofs of the family `40_codec.md`: the byte sum and the one changed byte it always catches (R130, R131), the
fold of CRC16 (R132, R134), and the two forms of its candidate step (R133). -/

namespace Sys2Proof.Machine

open Sys2Proof.Params

/-! ## The byte sum (R130) -/

theorem csum8_toNat (d : List Byte) : (csum8 d).toNat = (d.map BitVec.toNat).sum % 256 :=
  BitVec.toNat_ofNat _ 8

theorem csum8_cons (v : Byte) (d : List Byte) : csum8 (v :: d) = v + csum8 d := by
  apply BitVec.eq_of_toNat_eq
  simp [csum8_toNat]

theorem csum8_append (d e : List Byte) : csum8 (d ++ e) = csum8 d + csum8 e := by
  apply BitVec.eq_of_toNat_eq
  simp [csum8_toNat]

/-- Settles O15. -/
theorem csum8ReturnsTheByteSum : Obligations.Csum8ReturnsTheByteSum :=
  ⟨opcodeOf_code .csum8, fun d _ => ⟨csum8 d, csum8_toNat d, rfl⟩⟩

/-! ## One changed byte (R131) -/

theorem bytesAt_add (rd : Nat → Byte) (p q : Nat) : ∀ a : Nat,
    bytesAt rd a (p + q) = bytesAt rd a p ++ bytesAt rd (a + p) q := by
  induction p with
  | zero => simp [bytesAt]
  | succ p ih =>
    intro a
    rw [Nat.succ_add, bytesAt, bytesAt, ih, List.cons_append, Nat.succ_add_eq_add_succ]

/-- The sum of a range of bytes, taken apart at one of its addresses. -/
theorem csum8_bytesAt_split (rd : Nat → Byte) (c p q : Nat) :
    csum8 (bytesAt rd c (p + (q + 1))) =
      csum8 (bytesAt rd c p) + (rd (c + p) + csum8 (bytesAt rd (c + p + 1) q)) := by
  rw [bytesAt_add, csum8_append, bytesAt, csum8_cons]

/-- The sum modulo 256 moves with any one byte: the rest of the sum cancels. -/
theorem csum8_bytesAt_ne {rd rd' : Nat → Byte} {a c k : Nat} (hne : rd' a ≠ rd a)
    (hrest : ∀ b, b ≠ a → rd' b = rd b) (hc : c ≤ a) (hk : a < c + k) :
    csum8 (bytesAt rd' c k) ≠ csum8 (bytesAt rd c k) := by
  obtain ⟨p, rfl⟩ := Nat.exists_eq_add_of_le hc
  obtain ⟨q, rfl⟩ : ∃ q, k = p + (q + 1) := ⟨k - p - 1, by omega⟩
  have hbefore : bytesAt rd' c p = bytesAt rd c p := bytesAt_congr fun i _ _ => hrest i (by omega)
  have hafter : bytesAt rd' (c + p + 1) q = bytesAt rd (c + p + 1) q :=
    bytesAt_congr fun i _ _ => hrest i (by omega)
  rw [csum8_bytesAt_split, csum8_bytesAt_split, hbefore, hafter]
  simpa using hne

section OnePayloadByte

variable {rd rd' : Nat → Byte} {c n a : Nat} (hlo : c + 9 ≤ a) (hhi : a < c + 9 + n)
  (hrest : ∀ b, b ≠ a → rd' b = rd b)

include hlo hhi hrest

/-- The framing of a record reads no payload byte (R178). -/
theorem frameAt_complete_of_payload {size m : Nat} (hf : frameAt recordLayout rd size c = .complete n m) :
    frameAt recordLayout rd' size c = .complete n m := by
  rw [frameAt_recordLayout_eq_complete] at hf ⊢
  rwa [hrest c (by omega), hrest (c + 1) (by omega), hrest (c + 2) (by omega), hrest (c + 9 + n + 12) (by omega)]

/-- The payload is summed and the checksum byte is not in it, so one changed payload byte breaks the checksum. -/
theorem checksumOk_false_of_payload {m : Nat} (hne : rd' a ≠ rd a)
    (hok : checksumOk recordLayout rd c n m = true) : checksumOk recordLayout rd' c n m = false := by
  have hlen : recLen n m = 9 + n + 14 + 2 * m := rfl
  have hfield : fieldBits recordLayout rd' c n m .checksum 8 = fieldBits recordLayout rd c n m .checksum 8 := by
    rw [fieldBits, fieldBits, fieldNat_byte rfl rfl, fieldNat_byte rfl rfl, recordLayout_checksum,
      hrest _ (by omega)]
  have hsum : csum8 (bytesAt rd' c (recLen n m - 1)) ≠ csum8 (bytesAt rd c (recLen n m - 1)) :=
    csum8_bytesAt_ne hne hrest (by omega) (by omega)
  rw [checksumOk, beq_iff_eq] at hok
  rw [checksumOk, beq_eq_false_iff_ne, hfield, ← hok]
  exact hsum

end OnePayloadByte

theorem parse_of_checksum_mismatch {l : RecordLayout} {s : State} {n m : Nat}
    (hf : frameAt l s.byte s.size.toNat s.cursor.toNat = .complete n m)
    (hc : checksumOk l s.byte s.cursor.toNat n m = false) : s.parse l = .error .checksumMismatch := by
  simp [State.parse, hf, hc]

/-- BUF_POP fails as its parse does, and changes nothing but STATUS (R182). -/
theorem exec_bufPop_of_parse_error {s : State} {f : Failure} (hb : s.size.toNat ≤ bufCap)
    (hp : s.parse recordLayout = .error f) : exec .bufPop s = .next (s.fail f) := by
  have hboard : s.parse Config.board.layout = .error f := hp
  change bufPopWith Config.board s = _
  rw [bufPopWith, withBuffer_of_le hb, hboard]

/-- Settles O37: the record is still framed, and its sum has moved away from its checksum byte. -/
theorem oneChangedPayloadByteIsCaught : Obligations.OneChangedPayloadByteIsCaught := by
  intro s t n m a hb hsize hcursor hf hok hlo hhi hne hrest
  rw [hsize] at hf
  rw [hcursor] at hf hok hlo hhi
  exact exec_bufPop_of_parse_error hb (parse_of_checksum_mismatch
    (frameAt_complete_of_payload hlo hhi hrest hf) (checksumOk_false_of_payload hlo hhi hrest hne hok))

/-! ## CRC16 (R132, R134) -/

/-- Settles O16. -/
theorem crc16FoldsTheBytes : Obligations.Crc16FoldsTheBytes := by
  intro d s
  change (_ → crc16With Config.board d s = _) ∧ (_ → crc16With Config.board d s = _)
  unfold crc16With
  constructor
  · intro h
    rw [if_pos h]
    rfl
  · intro h
    rw [if_neg (Nat.not_le.2 h)]
    rfl

/-! ## The candidate step in its two forms (R133) -/

/-- One bit of the serial form: a shift by one place, and the bit shifted out is fed back at places 0, 5 and 12. -/
theorem candidateSerialBit_getLsbD (crc : Half) (bit : Bool) {i : Nat} (hi : i < 16) :
    (candidateSerialBit crc bit).getLsbD i =
      ((if i = 0 then bit else crc.getLsbD (i - 1)) ^^ (decide (i = 0 ∨ i = 5 ∨ i = 12) && crc.getLsbD 15)) := by
  have htaps : (0x1021#16).getLsbD i = decide (i = 0 ∨ i = 5 ∨ i = 12) := by
    interval_cases i <;> rfl
  have hshift : ((crc <<< 1) ||| BitVec.zeroExtend 16 (BitVec.ofBool bit)).getLsbD i =
      if i = 0 then bit else crc.getLsbD (i - 1) := by
    cases i with
    | zero => simp
    | succ j => simp [hi, -BitVec.getLsbD_eq_getElem]
  unfold candidateSerialBit
  cases hout : crc.getLsbD 15 <;> simp [hshift, htaps, -BitVec.getLsbD_eq_getElem]

/-- Settles O17, bit by bit: after eight shifts each bit is the sum its equation gives. -/
theorem candidateCrcFormsAgree : Obligations.CandidateCrcFormsAgree := by
  intro c b
  apply BitVec.eq_of_getLsbD_eq
  intro i hi
  simp only [candidateCrcStep, candidateSerialStep, List.foldl_cons, List.foldl_nil, BitVec.getLsbD_ofBoolListLE]
  interval_cases i <;>
    simp [candidateSerialBit_getLsbD, Bool.xor_comm, Bool.xor_left_comm, -BitVec.getLsbD_eq_getElem]

end Sys2Proof.Machine
end

section
/-! Proofs of the family `41_counters.md`: the timestamp counter domains (R140 to R147), what their words are as
numbers, and which moments of a 27-bit counter they tell apart (R318, R319). -/

namespace Sys2Proof.Machine

open Sys2Proof.Params

/-! ## Counter operands out of range (U2) -/

theorem decode_of_decodeOperands_error {op : Opcode} {os : List Operand} {e : Reject}
    (h : decodeOperands op os = .error e) : decode ⟨op.code, os⟩ = .error e := by
  simp only [decode, opcodeOf_code, h]

theorem narrowNum_of_le {w n : Nat} {e : Reject} (h : 2 ^ w ≤ n) : narrowNum w n e = .error e :=
  if_neg (Nat.not_lt.2 h)

theorem decode_tsUpdate_of_le {p i : Nat} (h : 2 ^ 27 ≤ p ∨ 2 ^ 27 ≤ i) :
    decode ⟨Opcode.tsUpdate.code, [.num p, .num i]⟩ = .error .counterRange := by
  apply decode_of_decodeOperands_error
  rw [decodeOperands]
  by_cases hp : 2 ^ 27 ≤ p
  · rw [narrowNum_of_le hp]
    rfl
  · rw [narrowNum_eq_ok.2 ⟨Nat.not_le.1 hp, rfl⟩, narrowNum_of_le (h.resolve_left hp)]
    rfl

theorem decode_tsExpand_of_le (dom : DomainName) {n : Nat} (h : 2 ^ 27 ≤ n) :
    decode ⟨Opcode.tsExpand.code, [.dom dom, .num n]⟩ = .error .counterRange := by
  apply decode_of_decodeOperands_error
  rw [decodeOperands, narrowNum_of_le h]
  rfl

theorem decode_tsPktexp_of_le {n : Nat} (h : 2 ^ 27 ≤ n) :
    decode ⟨Opcode.tsPktexp.code, [.num n]⟩ = .error .counterRange := by
  apply decode_of_decodeOperands_error
  rw [decodeOperands, narrowNum_of_le h]
  rfl

/-! ## The counters of a pair as numbers (R105, R108) -/

theorem beWord_toNat (b0 b1 b2 b3 : Byte) :
    (beWord b0 b1 b2 b3).toNat =
      b0.toNat * 2 ^ 24 + b1.toNat * 2 ^ 16 + b2.toNat * 2 ^ 8 + b3.toNat := by
  simp only [beWord, BitVec.toNat_append, Nat.shiftLeft_eq, Nat.mul_comm _ (2 ^ 8),
    ← Nat.two_pow_add_eq_or_of_lt (BitVec.isLt _)]
  omega

theorem pairPps_counterPairLayout (pair : Vector Byte 8) :
    pairPps counterPairLayout pair = beWord pair[0] pair[1] pair[2] pair[3] := rfl

theorem pairInst_counterPairLayout (pair : Vector Byte 8) :
    pairInst counterPairLayout pair = beWord pair[4] pair[5] pair[6] pair[7] := rfl

theorem raw27Of_toNat (w : Word) : (raw27Of w).toNat = w.toNat / 32 := by
  rw [raw27Of, BitVec.toNat_setWidth, BitVec.toNat_ushiftRight, Nat.shiftRight_eq_div_pow]
  omega

/-! ## The domains as numbers (R141, R143, R145) -/

theorem update_eq_toNat (d : TimestampDomain) (raw : Raw27) :
    d.update raw = ⟨raw, if raw.toNat < d.ref.toNat
      then BitVec.ofNat 5 ((d.wrap.toNat + 1) % 32) else d.wrap⟩ := by
  obtain ⟨hfell, hd⟩ | ⟨hkept, hd⟩ := update_cases d raw
  · rw [hd, if_pos (BitVec.lt_def.1 hfell)]
    congr 1
    bv_omega
  · rw [hd, if_neg (mt BitVec.lt_def.2 hkept)]

theorem pktWrap_toNat (d : TimestampDomain) (raw : Raw27) :
    (pktWrap d raw).toNat =
      if raw.toNat ≤ d.ref.toNat then d.wrap.toNat else (d.wrap.toNat + 31) % 32 := by
  simp only [pktWrap, BitVec.le_def]
  split
  · rfl
  · bv_omega

/-- Settles O18. -/
theorem tsUpdateCountsTheWraps : Obligations.TsUpdateCountsTheWraps := by
  refine ⟨opcodeOf_code .tsUpdate, fun p i h => decode_tsUpdate_of_le h, fun ppsRaw instRaw s => ?_⟩
  rw [← update_eq_toNat, ← update_eq_toNat]
  rfl

/-- Settles O20: the wrap counter and the raw value stand side by side in the word. -/
theorem tsExpandJoinsWrapAndRaw : Obligations.TsExpandJoinsWrapAndRaw := by
  refine ⟨opcodeOf_code .tsExpand, fun dom n h => decode_tsExpand_of_le dom h, fun dom raw s => ?_⟩
  refine ⟨expandWith (s.domain dom).wrap raw, ?_, rfl⟩
  rw [expandWith_toNat]
  cases dom <;> rfl

/-- Settles O21. -/
theorem tsPktexpPicksTheWrap : Obligations.TsPktexpPicksTheWrap := by
  refine ⟨opcodeOf_code .tsPktexp, fun n h => decode_tsPktexp_of_le h, fun pktRaw s => ?_⟩
  refine ⟨s.pktExpand pktRaw, ?_, rfl⟩
  rw [State.pktExpand, expandWith_toNat, pktWrap_toNat]

/-! ## One sample of both counters (R147) -/

/-- TS_UPDATE and TS_EXPAND write STATUS and the results again, so it makes no difference what the operation
before them left there. -/
theorem exec_tsUpdate_finish (p i : Raw27) (s : State) (r : Option Result) :
    exec (.tsUpdate p i) (s.finish r) = .next ((s.tsUpdate p i).finish none) := rfl

theorem exec_tsExpand_finish (dom : DomainName) (raw : Raw27) (s : State) (r : Option Result) :
    exec (.tsExpand dom raw) (s.finish r) =
      .next (s.finish (some (.expanded (expandWith (s.domain dom).wrap raw)))) := by
  cases dom <;> rfl

/-- Settles O22: the state between the steps is that of the sample, but for STATUS and the results. -/
theorem cntSampleIsItsSteps : Obligations.CntSampleIsItsSteps := by
  refine ⟨opcodeOf_code .cntSample, fun pair s => ?_⟩
  refine ⟨pairPps counterPairLayout pair, pairInst counterPairLayout pair, _, _, _, _, _, _, _, _,
    ?_, ?_, raw27Of_toNat _, raw27Of_toNat _, rfl, exec_tsUpdate_finish _ _ _ _,
    exec_tsExpand_finish _ _ _ _, rfl, exec_tsExpand_finish _ _ _ _, rfl, rfl⟩
  · rw [pairPps_counterPairLayout, beWord_toNat]
  · rw [pairInst_counterPairLayout, beWord_toNat]

/-! ## Tracking a counter (R140, R144, R146)

Of two moments less than a rollover period apart, the raw values alone tell whether the counter rolled over
between them. TS_UPDATE goes from the earlier to the later one by it, TS_PKTEXP from the later to the earlier. -/

theorem rollovers_of_sampledInTime {t u : Nat} (h : SampledInTime t u) :
    u / rolloverUs = if u % rolloverUs < t % rolloverUs then t / rolloverUs + 1 else t / rolloverUs := by
  obtain ⟨hle, hlt⟩ := h
  simp only [rolloverUs] at hlt ⊢
  split <;> omega

/-- R108, R143: the low 27 bits of a time and its rollovers, joined, are its low 32 bits. -/
theorem expandWith_rollovers (t : Nat) :
    expandWith (BitVec.ofNat 5 (t / rolloverUs)) (BitVec.ofNat 27 t) = BitVec.ofNat 32 t := by
  apply BitVec.eq_of_toNat_eq
  simp only [expandWith_toNat, BitVec.toNat_ofNat, rolloverUs]
  omega

namespace TimestampDomain.Tracks

variable {d : TimestampDomain} {t u : Nat}

theorem ref_toNat (h : d.Tracks t) : d.ref.toNat = t % rolloverUs := by
  rw [h.1, BitVec.toNat_ofNat]

theorem expandWith_wrap (h : d.Tracks t) : expandWith d.wrap (BitVec.ofNat 27 t) = BitVec.ofNat 32 t := by
  rw [h.2, expandWith_rollovers]

/-- R140, R318: a sample in time sees every rollover, so TS_UPDATE counts what the counter did. -/
theorem update (h : d.Tracks t) (hu : SampledInTime t u) : (d.update (BitVec.ofNat 27 u)).Tracks u := by
  have hfell : BitVec.ofNat 27 u < d.ref ↔ u % rolloverUs < t % rolloverUs := by
    rw [BitVec.lt_def, h.ref_toNat, BitVec.toNat_ofNat]
  obtain ⟨hlt, hd⟩ | ⟨hge, hd⟩ := update_cases d (BitVec.ofNat 27 u)
  · refine hd ▸ ⟨rfl, ?_⟩
    rw [rollovers_of_sampledInTime hu, if_pos (hfell.1 hlt), h.2, BitVec.ofNat_add]
  · refine hd ▸ ⟨rfl, ?_⟩
    rw [rollovers_of_sampledInTime hu, if_neg (mt hfell.2 hge), h.2]

/-- R146, R319: TS_PKTEXP takes back the one rollover that may lie between the packet and the sample. -/
theorem pktWrap_eq (h : d.Tracks u) (ht : SampledInTime t u) :
    pktWrap d (BitVec.ofNat 27 t) = BitVec.ofNat 5 (t / rolloverUs) := by
  have habove : BitVec.ofNat 27 t ≤ d.ref ↔ ¬ u % rolloverUs < t % rolloverUs := by
    rw [BitVec.le_def, h.ref_toNat, BitVec.toNat_ofNat, Nat.not_lt]
  simp only [pktWrap, habove, h.2, rollovers_of_sampledInTime ht, ite_not]
  split
  · rw [BitVec.ofNat_add, BitVec.add_sub_cancel]
  · rfl

end TimestampDomain.Tracks

/-- Settles O23. -/
theorem timelySamplesTrackTheCounter : Obligations.TimelySamplesTrackTheCounter := by
  intro dom ppsRaw instRaw s t u htracks htime hraw
  have hdom : (s.tsUpdate ppsRaw instRaw).domain dom = (s.domain dom).update (BitVec.ofNat 27 u) := by
    rw [← hraw]
    cases dom <;> rfl
  have hnow : ((s.tsUpdate ppsRaw instRaw).domain dom).Tracks u := hdom ▸ htracks.update htime
  refine ⟨(s.tsUpdate ppsRaw instRaw).finish none, rfl, ?_, ?_⟩
  · cases dom <;> exact hnow
  · rw [← hnow.expandWith_wrap]
    cases dom <;> rfl

/-- Settles O24. -/
theorem packetTimeIsRecovered : Obligations.PacketTimeIsRecovered := by
  intro s sampled captured htracks htime
  rw [← expandWith_rollovers, ← htracks.pktWrap_eq htime]
  rfl

end Sys2Proof.Machine
end

section
/-! Proofs of the family `42_pps_ring.md`: PPS_SAVE on the ring (R161, R163). -/

namespace Sys2Proof.Machine

/-! ## What one save does -/

theorem exec_ppsSave (raw : Word) (s : State) : exec (.ppsSave raw) s = .next ((s.savePps raw).finish none) := rfl

/-- The store of a new snapshot, as a state: the index is the one after the newest entry's. -/
theorem savePps_of_new {s : State} {raw : Word} (hnew : s.fill = 0#5 ∨ raw ≠ s.slotAt s.widx) :
    s.savePps raw = { s with
      widx := s.widx + 1#4
      slot := s.slot.set (s.widx + 1#4).toFin raw
      fill := if s.fill < 16#5 then s.fill + 1#5 else s.fill } := by
  obtain ⟨-, hs⟩ | ⟨hf, hr, -⟩ := savePps_cases s raw
  · exact hs
  · exact absurd hnew (not_or.2 ⟨hf, not_not.2 hr⟩)

/-- R163: the newest entry saved again is not stored. -/
theorem savePps_of_newest {s : State} {raw : Word} (hf : s.fill ≠ 0#5) (hr : raw = s.slotAt s.widx) :
    s.savePps raw = s := by
  obtain ⟨hnew, -⟩ | ⟨-, -, hs⟩ := savePps_cases s raw
  · exact absurd hnew (not_or.2 ⟨hf, not_not.2 hr⟩)
  · exact hs

/-- R32: the index runs modulo 16. -/
theorem index_succ (w : BitVec 4) : w + 1#4 = BitVec.ofNat 4 ((w.toNat + 1) % 16) := by
  bv_omega

theorem index_succ_toNat (w : BitVec 4) : (w + 1#4).toNat = (w.toNat + 1) % 16 := by
  rw [BitVec.toNat_add, BitVec.toNat_ofNat]

theorem fill_succ (f : BitVec 5) :
    (if f < 16#5 then f + 1#5 else f) = if f.toNat < 16 then BitVec.ofNat 5 (f.toNat + 1) else f := by
  rw [BitVec.ofNat_add, BitVec.ofNat_toNat, BitVec.setWidth_eq]
  rfl

/-- The slots after the store, by the number of the slot. -/
theorem get_set_slot_next (s : State) (raw : Word) (j : Fin 16) :
    (s.slot.set (s.widx + 1#4).toFin raw).get j =
      if j.val = (s.widx.toNat + 1) % 16 then raw else s.slot.get j := by
  have hj : BitVec.ofFin j = s.widx + 1#4 ↔ j.val = (s.widx.toNat + 1) % 16 := by
    rw [← BitVec.toNat_inj, index_succ_toNat]
    rfl
  have hget := get_set_slot s (s.widx + 1#4) (BitVec.ofFin j) raw
  simp only [hj] at hget
  exact hget

/-- Settles O25: the two cases of a save, the stored one in the numbers of the index, the count and the slots. -/
theorem ppsSaveStoresANewSnapshot : Obligations.PpsSaveStoresANewSnapshot := by
  refine ⟨opcodeOf_code .ppsSave, fun raw s => ⟨fun hnew => ?_, fun ⟨hf, hr⟩ => ?_⟩⟩
  · refine ⟨_, exec_ppsSave raw s, ?_⟩
    rw [savePps_of_new hnew, ← index_succ, ← fill_succ]
    exact ⟨rfl, get_set_slot_next s raw⟩
  · rw [exec_ppsSave, savePps_of_newest hf hr]
    rfl

/-! ## One value saved again and again -/

/-- The ring with one snapshot since reset, in slot 1. -/
structure HoldsOnly (raw : Word) (s : State) : Prop where
  fill : s.fill = 1#5
  widx : s.widx = 1#4
  slot : s.slotAt 1#4 = raw

theorem HoldsOnly.takeRequest {raw : Word} {s : State} (rest : List Request) (h : HoldsOnly raw s) :
    HoldsOnly raw { s with port := rest } := ⟨h.fill, h.widx, h.slot⟩

theorem HoldsOnly.finish {raw : Word} {s : State} (r : Option Result) (h : HoldsOnly raw s) :
    HoldsOnly raw (s.finish r) := ⟨h.fill, h.widx, h.slot⟩

/-- The first snapshot after reset. -/
theorem holdsOnly_savePps_of_empty {s : State} (raw : Word) (hf : s.fill = 0#5) (hw : s.widx = 0#4) :
    HoldsOnly raw (s.savePps raw) := by
  obtain ⟨hwidx, hfill, hslot⟩ := savePps_stores (raw := raw) (.inl hf)
  rw [hw] at hwidx hslot
  exact ⟨BitVec.eq_of_toNat_eq (by rw [hfill, hf]; rfl), hwidx, hslot 1#4⟩

/-- R163: a later save of the same value. -/
theorem holdsOnly_savePps {raw : Word} {s : State} (h : HoldsOnly raw s) : HoldsOnly raw (s.savePps raw) := by
  have hf : s.fill ≠ 0#5 := by
    rw [h.fill]
    decide
  have hr : raw = s.slotAt s.widx := by rw [h.widx, h.slot]
  rwa [savePps_of_newest hf hr]

/-- A step that takes a save, whatever the ring holds. -/
theorem step_ppsSave {s : State} {raw : Word} {rest : List Request} (hp : s.port = encode (.ppsSave raw) :: rest) :
    step s = .next (({ s with port := rest }.savePps raw).finish none) :=
  step_of_decode_ok hp (decode_encode_ppsSave raw)

/-- The run over the saves that are left, once the value is in. -/
theorem run_replicate_ppsSave {raw : Word} : ∀ (m : Nat) (s : State), HoldsOnly raw s →
    s.port = List.replicate m (encode (.ppsSave raw)) →
    ∃ t : State, Host.Core.run Sys2Proof.core m s = .next t ∧ HoldsOnly raw t ∧ t.port = [] := by
  intro m
  induction m with
  | zero => exact fun s h hp => ⟨s, rfl, h, hp⟩
  | succ m ih =>
    intro s h hp
    rw [List.replicate_succ] at hp
    have hsave := holdsOnly_savePps (h.takeRequest (List.replicate m (encode (.ppsSave raw))))
    obtain ⟨t, ht, hold, hport⟩ := ih _ (hsave.finish none) (by simp)
    exact ⟨t, (run_succ_of_step (step_ppsSave hp)).trans ht, hold, hport⟩

/-- Settles O26: the first save fills slot 1, and every later one finds its value there. -/
theorem repeatedSavesCountOnce : Obligations.RepeatedSavesCountOnce := by
  intro n raw hn
  obtain ⟨m, rfl⟩ : ∃ m, n = m + 1 := ⟨n - 1, by omega⟩
  have hfirst := step_ppsSave (s := { State.reset with port := List.replicate (m + 1) (encode (.ppsSave raw)) })
    (List.replicate_succ ..)
  have hsave := holdsOnly_savePps_of_empty
    (s := { State.reset with port := List.replicate m (encode (.ppsSave raw)) }) raw rfl rfl
  obtain ⟨t, ht, hold, hport⟩ := run_replicate_ppsSave m _ (hsave.finish none) (by simp)
  exact ⟨t, (run_succ_of_step hfirst).trans ht, hold.fill, hold.widx, hold.slot, hport⟩

end Sys2Proof.Machine
end

section
/-! Proofs of the family `43_rx_buffer.md`: fetching into the buffer (R170 to R176, R184). -/

namespace Sys2Proof.Machine

open Sys2Proof.Params

/-- Settles O28. -/
theorem bufClearEmptiesTheBuffer : Obligations.BufClearEmptiesTheBuffer :=
  ⟨opcodeOf_code .bufClear, fun _ => rfl⟩

/-! ## The ends of a fetch, each under its condition -/

theorem exec_bufFetch {len1 len2 : Half} {data : List Byte} (s : State) (hl : FetchLegal len1 len2 data) :
    exec (.bufFetch len1 len2 data) s =
      (s.fetch recordLayout data).1.conclude ((s.fetch recordLayout data).2.map .count) := by
  change bufFetchWith Config.board len1 len2 data s = _
  rw [bufFetchWith, if_pos hl, board_layout]

theorem fetch_of_short {l : RecordLayout} (s : State) {data : List Byte} (hs : data.length < minLen) :
    s.fetch l data = (s.clearBuffer, .ok 0#8) := by
  simp only [State.fetch, hs, if_true]

theorem fetch_of_no_sync {l : RecordLayout} (s : State) {data : List Byte} (hs : minLen ≤ data.length)
    (hk : findSync data = none) : s.fetch l data = (s.clearBuffer, .error .malformedBuffer) := by
  simp only [State.fetch, Nat.not_lt.2 hs, if_false, hk]

section Synced

variable {l : RecordLayout} {s : State} {garbage body : List Byte} (hs : minLen ≤ (garbage ++ body).length)
  (hk : findSync (garbage ++ body) = some garbage.length)

include hs hk

theorem fetch_of_walk_none (hw : walk l (s.clearBuffer.load body).byte body.length body.length 0 0 = none) :
    s.fetch l (garbage ++ body) = ((s.clearBuffer.load body).clearBuffer, .error .malformedBuffer) := by
  rw [State.fetch, if_neg (Nat.not_lt.2 hs), hk]
  simp only [List.drop_left, List.length_append, Nat.add_sub_cancel_left, hw]

theorem fetch_of_walk_some {n : Nat}
    (hw : walk l (s.clearBuffer.load body).byte body.length body.length 0 0 = some n) :
    s.fetch l (garbage ++ body) =
      ({ s.clearBuffer.load body with packetCount := BitVec.ofNat 8 n }, .ok (BitVec.ofNat 8 n)) := by
  rw [State.fetch, if_neg (Nat.not_lt.2 hs), hk]
  simp only [List.drop_left, List.length_append, Nat.add_sub_cancel_left, hw]

end Synced

/-! ## The first sync word (R173) -/

theorem findSync_eq_none {data : List Byte}
    (h : ∀ k, ¬ (data[k]? = some sync0 ∧ data[k + 1]? = some sync1)) : findSync data = none := by
  cases hk : findSync data with
  | none => rfl
  | some k => exact absurd (findSync_eq_some.1 hk).1 (h k)

/-- The sync word stands at the front of the byte string (R90). -/
def StartsSynced (d : List Byte) : Prop := d[0]? = some sync0 ∧ d[1]? = some sync1

/-- The search skips bytes at which no sync pair begins. -/
theorem findSync_append {garbage body : List Byte} (hb : StartsSynced body)
    (hg : ∀ k, k < garbage.length →
      ¬ ((garbage ++ body)[k]? = some sync0 ∧ (garbage ++ body)[k + 1]? = some sync1)) :
    findSync (garbage ++ body) = some garbage.length := by
  have hat (j : Nat) : (garbage ++ body)[garbage.length + j]? = body[j]? := by
    rw [List.getElem?_append_right (Nat.le_add_right ..), Nat.add_sub_cancel_left]
  exact findSync_eq_some.2 ⟨⟨(hat 0).trans hb.1, (hat 1).trans hb.2⟩, hg⟩

/-- Settles O29: both conditions empty the buffer and store nothing. -/
theorem bufFetchDiscardsShortOrUnsyncedData : Obligations.BufFetchDiscardsShortOrUnsyncedData := by
  intro len1 len2 data s hl
  constructor
  · intro hs
    rw [exec_bufFetch s hl, fetch_of_short s hs]
    rfl
  · intro hs hno
    rw [exec_bufFetch s hl, fetch_of_no_sync s hs (findSync_eq_none hno)]
    rfl

/-- Settles O30: both fetches find their sync word at the same byte, and store and walk what follows it. -/
theorem bufFetchSkipsLeadingGarbage : Obligations.BufFetchSkipsLeadingGarbage := by
  intro len1 len2 len1' len2' garbage data s hl hl' hs h0 h1 hg
  have hfind : findSync (garbage ++ data) = some garbage.length := findSync_append ⟨h0, h1⟩ hg
  have hfind' : findSync data = some 0 := findSync_append (garbage := []) ⟨h0, h1⟩ nofun
  have hs' : minLen ≤ (garbage ++ data).length := hs.trans (List.sublist_append_right garbage data).length_le
  have hfetch : s.fetch recordLayout (garbage ++ data) = s.fetch recordLayout data := by
    cases hw : walk recordLayout (s.clearBuffer.load data).byte data.length data.length 0 0 with
    | none => exact (fetch_of_walk_none hs' hfind hw).trans (fetch_of_walk_none (garbage := []) hs hfind' hw).symm
    | some n => exact (fetch_of_walk_some hs' hfind hw).trans (fetch_of_walk_some (garbage := []) hs hfind' hw).symm
  rw [exec_bufFetch s hl, exec_bufFetch s hl', hfetch]

/-! ## The bytes a fetch stores (R171) -/

/-- The bytes of `d` stand from address `a` on. -/
def StoredAt (rd : Nat → Byte) (a : Nat) (d : List Byte) : Prop :=
  ∀ k, k < d.length → d[k]? = some (rd (a + k))

theorem StoredAt.append {rd : Nat → Byte} {a : Nat} {d e : List Byte} (h : StoredAt rd a (d ++ e)) :
    StoredAt rd a d ∧ StoredAt rd (a + d.length) e := by
  constructor
  · intro k hk
    rw [← List.getElem?_append_left (l₂ := e) hk]
    exact h k (by rw [List.length_append]; omega)
  · intro k hk
    have hat := h (d.length + k) (by rw [List.length_append]; omega)
    rwa [List.getElem?_append_right (Nat.le_add_right ..), Nat.add_sub_cancel_left, ← Nat.add_assoc] at hat

/-- A byte of a stored string, in the terms of `FramedRecord`. -/
theorem StoredAt.getD {rd : Nat → Byte} {a k : Nat} {d : List Byte} (h : StoredAt rd a d) (hk : k < d.length) :
    rd (a + k) = d.getD k 0#8 := by
  rw [List.getD_eq_getElem?_getD, h k hk, Option.getD_some]

theorem load_stored {s : State} {d : List Byte} (hd : d.length ≤ bufCap) (hw : memWf s.buf = true) {k : Nat}
    (hk : k < d.length) : d[k]? = some ((s.load d).byte k) := by
  rw [load_byte hd hw, List.getElem?_eq_getElem hk, Option.getD_some]

theorem storedAt_load {s : State} {d : List Byte} (hd : d.length ≤ bufCap) (hw : memWf s.buf = true) :
    StoredAt (s.load d).byte 0 d := by
  intro k hk
  rw [Nat.zero_add]
  exact load_stored hd hw hk

/-- Writing a byte string leaves the addresses behind it alone, whatever the memory's form. -/
theorem memRead_memWriteAll_behind {b : Nat} : ∀ (d : List Byte) (mem : List Host.Cell) (a : Nat), a + d.length ≤ b →
    memRead (memWriteAll mem a d) b = memRead mem b := by
  intro d
  induction d with
  | nil => intros; rfl
  | cons v d ih =>
    intro mem a hb
    rw [List.length_cons] at hb
    rw [memWriteAll, ih _ _ (by omega), memRead_memWrite_other (by omega)]

theorem load_byte_behind {s : State} {d : List Byte} {a : Nat} (ha : d.length ≤ a) : (s.load d).byte a = s.byte a :=
  memRead_memWriteAll_behind d s.buf 0 (by omega)

section LoadDrop

variable {s : State} {data : List Byte} {k a : Nat}

theorem load_drop_stored (hd : data.length ≤ bufCap) (hw : memWf s.buf = true) (ha : a < data.length - k) :
    data[k + a]? = some ((s.load (data.drop k)).byte a) := by
  have hlen : (data.drop k).length = data.length - k := List.length_drop
  rw [← List.getElem?_drop]
  exact load_stored (hlen.trans_le ((Nat.sub_le ..).trans hd)) hw (ha.trans_eq hlen.symm)

theorem load_drop_behind (ha : data.length - k ≤ a) : (s.load (data.drop k)).byte a = s.byte a :=
  load_byte_behind (List.length_drop.trans_le ha)

theorem load_drop_size_toNat (hd : data.length ≤ bufCap) :
    (s.load (data.drop k)).size.toNat = data.length - k := by
  have hlen : (data.drop k).length = data.length - k := List.length_drop
  rw [load_size_toNat s (hlen.trans_le ((Nat.sub_le ..).trans hd)), hlen]

end LoadDrop

/-- Settles O31, end by end: the two that find no sync word store nothing, the two that find one load the bytes
from it on. -/
theorem bufFetchEndsWithCountOrFailure : Obligations.BufFetchEndsWithCountOrFailure := by
  intro len1 len2 data s hl
  have hd := length_le_of_fetchLegal hl
  rw [exec_bufFetch s hl]
  obtain ⟨hs, hf⟩ | ⟨-, hnone, hf⟩ | ⟨k, hs, hk, -, hf⟩ | ⟨k, n, hs, hk, -, hf⟩ := fetch_cases recordLayout s data
  all_goals rw [hf]
  · exact ⟨_, rfl, rfl, .inl ⟨rfl, rfl⟩, fun k _ hs' _ => absurd hs (Nat.not_lt.2 hs'), fun _ _ => rfl,
      rfl, rfl, rfl, rfl, rfl⟩
  · exact ⟨_, rfl, rfl, .inr ⟨rfl, rfl, rfl, rfl⟩, fun k _ _ hk => absurd (hnone.symm.trans hk) nofun, fun _ _ => rfl,
      rfl, rfl, rfl, rfl, rfl⟩
  · refine ⟨_, rfl, rfl, .inr ⟨rfl, rfl, rfl, rfl⟩, fun k' hw _ hk' => ?_, fun a ha => ?_, rfl, rfl, rfl, rfl, rfl⟩
    · obtain rfl := Option.some.inj (hk.symm.trans hk')
      exact ⟨fun a ha => load_drop_stored hd hw ha, nofun⟩
    · exact load_drop_behind (ha k hs hk)
  · refine ⟨_, rfl, rfl, .inl ⟨rfl, rfl⟩, fun k' hw _ hk' => ?_, fun a ha => ?_, rfl, rfl, rfl, rfl, rfl⟩
    · obtain rfl := Option.some.inj (hk.symm.trans hk')
      exact ⟨fun a ha => load_drop_stored hd hw ha, fun _ => load_drop_size_toNat (s := s.clearBuffer) hd⟩
    · exact load_drop_behind (ha k hs hk)

/-! ## The walk over stored records (R174, R175) -/

/-- A record that is stored whole below `size` is found complete, with its own two lengths. -/
theorem frameAt_of_framedRecord {rd : Nat → Byte} {size idx : Nat} {b : List Byte} (hb : FramedRecord b)
    (hst : StoredAt rd idx b) (hle : idx + b.length ≤ size) :
    frameAt recordLayout rd size idx = .complete (recordN b) (recordM b) := by
  obtain ⟨h0, h1, hlen⟩ := hb
  have hn : rd (idx + 2) = b.getD 2 0#8 := hst.getD (by omega)
  have hm : rd (idx + 9 + recordN b + 12) = b.getD (9 + recordN b + 12) 0#8 := by
    rw [Nat.add_assoc, Nat.add_assoc, ← Nat.add_assoc 9]
    exact hst.getD (by omega)
  refine frameAt_recordLayout_eq_complete.2 ⟨⟨?_, ?_⟩, ?_, ?_, by omega⟩
  · exact (hst.getD (k := 0) (by omega)).trans h0
  · exact (hst.getD (by omega)).trans h1
  · rw [hn, recordN]
  · rw [hm, recordM]

/-- A proper beginning of a record, long enough to hold its sync word, is found incomplete: a length field that is
stored is the record's own, and the record ends above `size`. -/
theorem frameAt_of_cut_record {rd : Nat → Byte} {idx : Nat} {rest b : List Byte} (hb : FramedRecord b)
    (hst : StoredAt rd idx rest) (hp : rest <+: b) (h2 : 2 ≤ rest.length) (hlt : rest.length < b.length) :
    frameAt recordLayout rd (idx + rest.length) idx = .incomplete := by
  obtain ⟨h0, h1, hlen⟩ := hb
  have hat {k : Nat} (hk : k < rest.length) : rd (idx + k) = b.getD k 0#8 := by
    obtain ⟨tail, rfl⟩ := hp
    rw [hst.getD hk, List.getD_append _ _ _ _ hk]
  have hsync : rd idx = sync0 ∧ rd (idx + 1) = sync1 := ⟨(hat (k := 0) (by omega)).trans h0, (hat (by omega)).trans h1⟩
  rw [frameAt_recordLayout rfl rfl, if_neg (not_or.2 ⟨by omega, not_not.2 hsync⟩), if_pos]
  by_cases hn : rest.length < 3
  · exact .inl (by omega)
  have hN : (rd (idx + 2)).toNat = recordN b := by rw [hat (by omega), recordN]
  rw [hN]
  by_cases hm : rest.length < 9 + recordN b + 13
  · exact .inr (.inl (by omega))
  have hM : (rd (idx + 9 + recordN b + 12)).toNat = recordM b := by
    rw [Nat.add_assoc, Nat.add_assoc, ← Nat.add_assoc 9, hat (by omega), recordM]
  rw [hM]
  exact .inr (.inr (by omega))

/-- Bytes that do not start with a sync word, one byte among them, are no record. -/
theorem frameAt_of_broken {rd : Nat → Byte} {idx : Nat} {rest : List Byte} (hst : StoredAt rd idx rest)
    (hno : ¬ StartsSynced rest) : frameAt recordLayout rd (idx + rest.length) idx = .noSync := by
  rw [frameAt_recordLayout rfl rfl, if_pos]
  by_cases h2 : rest.length < 2
  · exact .inl (by omega)
  · refine .inr fun ⟨h0, h1⟩ => hno ⟨?_, ?_⟩
    · exact (hst 0 (by omega)).trans (congrArg some h0)
    · exact (hst 1 (by omega)).trans (congrArg some h1)

section Walk

variable {rd : Nat → Byte} {size : Nat}

/-- The walk over whole records counts each once and goes on behind them. -/
theorem walk_of_framedRecords : ∀ (rs : List (List Byte)) (idx : Nat), (∀ b ∈ rs, FramedRecord b) →
    StoredAt rd idx rs.flatten → idx + rs.flatten.length ≤ size →
    walk recordLayout rd size size idx 0 =
      (walk recordLayout rd size size (idx + rs.flatten.length) 0).map (· + rs.length) := by
  intro rs
  induction rs with
  | nil => intros; simp
  | cons b rs ih =>
    intro idx hrs hst hle
    obtain ⟨hb, hrs⟩ := List.forall_mem_cons.1 hrs
    rw [List.flatten_cons, List.length_append, ← Nat.add_assoc] at hle
    rw [List.flatten_cons] at hst
    obtain ⟨hfirst, hothers⟩ := hst.append
    have hrec : recLen (recordN b) (recordM b) = b.length := by
      obtain ⟨-, -, hlen⟩ := hb
      exact hlen.symm
    rw [walk_of_complete (frameAt_of_framedRecord hb hfirst (by omega)), hrec, ih _ hrs hothers hle, Option.map_map, List.flatten_cons, List.length_append, Nat.add_assoc]
    rfl

variable {idx : Nat}

theorem walk_of_le (h : size ≤ idx) : walk recordLayout rd size size idx 0 = some 0 := by
  cases size with
  | zero => rfl
  | succ fuel => rw [walk, if_neg (Nat.not_lt.2 h)]

/-- R175: an incomplete record ends the walk uncounted. -/
theorem walk_of_incomplete (h : idx < size) (hf : frameAt recordLayout rd size idx = .incomplete) :
    walk recordLayout rd size size idx 0 = some 0 := by
  obtain ⟨fuel, rfl⟩ : ∃ fuel, size = fuel + 1 := ⟨size - 1, by omega⟩
  rw [walk, if_pos h, hf]

/-- R174: a boundary without a sync word fails the walk. -/
theorem walk_of_noSync (h : idx < size) (hf : frameAt recordLayout rd size idx = .noSync) :
    walk recordLayout rd size size idx 0 = none := by
  obtain ⟨fuel, rfl⟩ : ∃ fuel, size = fuel + 1 := ⟨size - 1, by omega⟩
  rw [walk, if_pos h, hf]

end Walk

section WalkLoad

variable {s : State} {rs : List (List Byte)} {rest body : List Byte} (hbody : body = rs.flatten ++ rest)
  (hd : body.length ≤ bufCap) (hw : s.BufferCanonical) (hrs : ∀ b ∈ rs, FramedRecord b)

include hbody hd hw hrs

/-- Records and what follows them, walked where a load has put them. -/
theorem walk_load :
    StoredAt (s.load body).byte rs.flatten.length rest ∧
    walk recordLayout (s.load body).byte body.length body.length 0 0 =
      (walk recordLayout (s.load body).byte body.length body.length rs.flatten.length 0).map (· + rs.length) := by
  have hst := storedAt_load hd hw
  rw [hbody] at hst ⊢
  obtain ⟨hrecords, hrest⟩ := hst.append
  rw [Nat.zero_add] at hrest
  refine ⟨hrest, ?_⟩
  rw [walk_of_framedRecords rs 0 hrs hrecords (by rw [List.length_append]; omega), Nat.zero_add]

/-- R175, R184 (a): the walk counts the records where nothing or an incomplete record follows them. -/
theorem walk_load_of_incomplete
    (hrest : rest = [] ∨ ∃ b, FramedRecord b ∧ rest <+: b ∧ 2 ≤ rest.length ∧ rest.length < b.length) :
    walk recordLayout (s.load body).byte body.length body.length 0 0 = some rs.length := by
  obtain ⟨hstored, hwalk⟩ := walk_load hbody hd hw hrs
  have hlen : body.length = rs.flatten.length + rest.length := by rw [hbody, List.length_append]
  have hend : walk recordLayout (s.load body).byte body.length body.length rs.flatten.length 0 = some 0 := by
    obtain rfl | ⟨b, hb, hp, h2, hlt⟩ := hrest
    · exact walk_of_le hlen.le
    · refine walk_of_incomplete (by omega) ?_
      rw [hlen]
      exact frameAt_of_cut_record hb hstored hp h2 hlt
  rw [hwalk, hend, Option.map_some, Nat.zero_add]

/-- R174: the walk fails where bytes without a sync word follow the records. -/
theorem walk_load_of_broken (hne : rest ≠ []) (hno : ¬ StartsSynced rest) :
    walk recordLayout (s.load body).byte body.length body.length 0 0 = none := by
  obtain ⟨hstored, hwalk⟩ := walk_load hbody hd hw hrs
  have hpos := List.length_pos_iff.2 hne
  have hlen : body.length = rs.flatten.length + rest.length := by rw [hbody, List.length_append]
  have hend : walk recordLayout (s.load body).byte body.length body.length rs.flatten.length 0 = none := by
    refine walk_of_noSync (by omega) ?_
    rw [hlen]
    exact frameAt_of_broken hstored hno
  rw [hwalk, hend, Option.map_none]

end WalkLoad

/-! ## The front of stored records -/

theorem startsSynced_append {d : List Byte} (e : List Byte) (h : StartsSynced d) : StartsSynced (d ++ e) := by
  obtain ⟨h0, h1⟩ := h
  obtain ⟨l0, -⟩ := List.getElem?_eq_some_iff.1 h0
  obtain ⟨l1, -⟩ := List.getElem?_eq_some_iff.1 h1
  exact ⟨(List.getElem?_append_left l0).trans h0, (List.getElem?_append_left l1).trans h1⟩

theorem startsSynced_of_beginning {d b : List Byte} (hp : d <+: b) (h2 : 2 ≤ d.length) (h : StartsSynced b) :
    StartsSynced d := by
  obtain ⟨e, rfl⟩ := hp
  obtain ⟨h0, h1⟩ := h
  exact ⟨(List.getElem?_append_left (by omega)).symm.trans h0, (List.getElem?_append_left (by omega)).symm.trans h1⟩

theorem FramedRecord.startsSynced {b : List Byte} (hb : FramedRecord b) : StartsSynced b := by
  obtain ⟨h0, h1, hlen⟩ := hb
  have hat {k : Nat} (hk : k < b.length) : b[k]? = some (b.getD k 0#8) := by
    rw [List.getD_eq_getElem _ _ hk, List.getElem?_eq_getElem hk]
  exact ⟨(hat (by omega)).trans (congrArg some h0), (hat (by omega)).trans (congrArg some h1)⟩

/-- Records start with the first one's sync word; without records, what follows stands at the front. -/
theorem startsSynced_flatten_append {rs : List (List Byte)} {rest : List Byte} (hrs : ∀ b ∈ rs, FramedRecord b)
    (hrest : rs = [] → StartsSynced rest) : StartsSynced (rs.flatten ++ rest) := by
  cases rs with
  | nil => exact hrest rfl
  | cons b rs =>
    rw [List.flatten_cons, List.append_assoc]
    exact startsSynced_append _ (FramedRecord.startsSynced (hrs b List.mem_cons_self))

/-- R91, R92: a record takes at least 23 bytes. -/
theorem minLen_le_flatten {rs : List (List Byte)} (hne : rs ≠ []) (hrs : ∀ b ∈ rs, FramedRecord b) :
    minLen ≤ rs.flatten.length := by
  obtain ⟨b, hb⟩ := List.exists_mem_of_ne_nil rs hne
  obtain ⟨-, -, hlen⟩ := hrs b hb
  have hsub := (List.sublist_flatten_of_mem hb).length_le
  simp only [minLen, headLen, tailLen]
  omega

/-- Settles O32: the search skips the garbage, the walk counts the records and stops at the rest, which is empty or
incomplete. -/
theorem bufFetchCountsCompleteRecords : Obligations.BufFetchCountsCompleteRecords := by
  intro len1 len2 garbage rs rest body s hbody hl hw hrs hrest hg hlen
  rw [exec_bufFetch s hl]
  obtain hempty | ⟨hs, hne⟩ := hlen
  · obtain ⟨rfl, rfl⟩ := List.append_eq_nil_iff.1 hempty
    have hnil : rs = [] := by
      by_contra hne
      have hlong := minLen_le_flatten hne hrs
      rw [(List.append_eq_nil_iff.1 hbody.symm).1] at hlong
      exact absurd hlong (by decide)
    rw [fetch_of_short s (by decide), hnil]
    exact ⟨_, rfl, rfl, rfl, rfl, rfl, rfl, nofun⟩
  have hd : body.length ≤ bufCap :=
    (List.sublist_append_right garbage body).length_le.trans (length_le_of_fetchLegal hl)
  have hfront : StartsSynced body := by
    rw [hbody]
    refine startsSynced_flatten_append hrs fun hnil => ?_
    obtain rfl | ⟨b, hb, hp, h2, -⟩ := hrest
    · exact absurd (by rw [hbody, hnil]; rfl) hne
    · exact startsSynced_of_beginning hp h2 (FramedRecord.startsSynced hb)
  have hcount := walk_load_of_incomplete (s := s.clearBuffer) hbody hd hw hrs hrest
  rw [fetch_of_walk_some hs (findSync_append hfront hg) hcount]
  exact ⟨_, rfl, load_size_toNat s.clearBuffer hd, rfl, count_toNat (walk_le_packetsMax hd hcount), rfl, rfl,
    fun _ hk => load_stored (s := s.clearBuffer) hd hw hk⟩

/-- Settles O33: the walk counts the records and fails at the rest. -/
theorem bufFetchDiscardsABrokenBoundary : Obligations.BufFetchDiscardsABrokenBoundary := by
  intro len1 len2 rs rest s hl hw hne hrs hrest hno
  have hd := length_le_of_fetchLegal hl
  have hfront : StartsSynced (rs.flatten ++ rest) := startsSynced_flatten_append hrs fun hnil => absurd hnil hne
  have hs : minLen ≤ (rs.flatten ++ rest).length :=
    (minLen_le_flatten hne hrs).trans (List.sublist_append_left rs.flatten rest).length_le
  have hfetch : s.fetch recordLayout (rs.flatten ++ rest) = _ :=
    fetch_of_walk_none (garbage := []) hs (findSync_append hfront nofun)
      (walk_load_of_broken (s := s.clearBuffer) rfl hd hw hrs hrest hno)
  rw [exec_bufFetch s hl, hfetch]
  exact ⟨_, rfl, rfl, rfl, rfl, rfl, rfl, rfl, rfl, rfl, rfl, rfl⟩

end Sys2Proof.Machine
end

section
/-! Proofs of the family `43_rx_buffer.md`: popping a record (R177 to R183), and the fields of the packet (R93). -/

namespace Sys2Proof.Machine

open Sys2Proof.Params

/-! ## The fields of the spec's table (R63, R93) -/

theorem bytesAt_eq_map (rd : Nat → Byte) : ∀ n a : Nat, bytesAt rd a n = (List.range n).map fun k => rd (a + k) := by
  intro n
  induction n with
  | zero => intro a; rfl
  | succ n ih =>
    intro a
    rw [bytesAt_add rd n 1, ih, List.range_succ, List.map_append]
    rfl

section Fields

variable {l : RecordLayout} {rd : Nat → Byte} {c n m : Nat} {f : Field}

/-- A field inside one byte: its bits of that byte. -/
theorem fieldBits_of_bits {w : Nat} (hw : (l f).width = w) (h0 : 0 < w) (h8 : (l f).bit + w ≤ 8) :
    fieldBits l rd c n m f w = (rd (fieldOffset l c n m f)).extractLsb' (l f).bit w := by
  have hbytes : fieldBytes l f = 1 := by
    rw [fieldBytes, hw]
    omega
  apply BitVec.eq_of_toNat_eq
  simp [fieldBits, fieldNat, hbytes, hw, leNat]

/-- A field that is one whole byte. -/
theorem fieldBits_of_byte (hw : (l f).width = 8) (hb : (l f).bit = 0) :
    fieldBits l rd c n m f 8 = rd (fieldOffset l c n m f) := by
  rw [fieldBits_of_bits hw (by decide) (by omega), hb]
  exact BitVec.extractLsb'_eq_self

/-- A field of one bit. -/
theorem fieldFlag_of_bit (hw : (l f).width = 1) (hb : (l f).bit < 8) :
    fieldFlag l rd c n m f = (rd (fieldOffset l c n m f)).getLsbD (l f).bit := by
  have hbytes : fieldBytes l f = 1 := by
    rw [fieldBytes, hw]
    omega
  rw [fieldFlag, fieldNat, hbytes, hw, BitVec.getLsbD, Nat.testBit_eq_decide_div_mod_eq, leNat, leNat, Nat.mul_zero,
    Nat.add_zero, Nat.shiftRight_eq_div_pow, Nat.pow_one, beq_eq_decide]

/-- The frequency offset: two whole bytes and the low four bits of a third (R95). -/
theorem fieldBits_freqOffset : fieldBits recordLayout rd c n m .freqOffset 20 =
    (rd (c + 8)).extractLsb' 0 4 ++ rd (c + 7) ++ rd (c + 6) := by
  apply BitVec.eq_of_toNat_eq
  have hnum : fieldNat recordLayout rd c n m .freqOffset =
      ((rd (c + 6)).toNat + 256 * ((rd (c + 7)).toNat + 256 * (rd (c + 8)).toNat)) % 2 ^ 20 := rfl
  rw [fieldBits, hnum]
  simp only [BitVec.toNat_append, Nat.shiftLeft_eq, Nat.mul_comm _ (2 ^ 8),
    ← Nat.two_pow_add_eq_or_of_lt (BitVec.isLt _), BitVec.extractLsb'_toNat, BitVec.toNat_ofNat, Nat.shiftRight_zero]
  omega

/-- The timestamp, least significant byte first (R98). -/
theorem fieldBits_timestamp : fieldBits recordLayout rd c n m .timestamp 32 =
    beWord (rd (c + 9 + n + 9)) (rd (c + 9 + n + 8)) (rd (c + 9 + n + 7)) (rd (c + 9 + n + 6)) := by
  apply BitVec.eq_of_toNat_eq
  have hnum : fieldNat recordLayout rd c n m .timestamp = ((rd (c + 9 + n + 6)).toNat + 256 *
      ((rd (c + 9 + n + 7)).toNat + 256 * ((rd (c + 9 + n + 8)).toNat + 256 * (rd (c + 9 + n + 9)).toNat))) %
        2 ^ 32 := rfl
  rw [fieldBits, hnum, beWord_toNat, BitVec.toNat_ofNat]
  omega

/-- The CRC16 field, least significant byte first (R101). -/
theorem fieldBits_crc16 : fieldBits recordLayout rd c n m .crc16 16 = rd (c + 9 + n + 11) ++ rd (c + 9 + n + 10) := by
  apply BitVec.eq_of_toNat_eq
  have hnum : fieldNat recordLayout rd c n m .crc16 =
      ((rd (c + 9 + n + 10)).toNat + 256 * (rd (c + 9 + n + 11)).toNat) % 2 ^ 16 := rfl
  rw [fieldBits, hnum]
  simp only [BitVec.toNat_append, Nat.shiftLeft_eq, Nat.mul_comm _ (2 ^ 8),
    ← Nat.two_pow_add_eq_or_of_lt (BitVec.isLt _), BitVec.toNat_ofNat]
  omega

end Fields

/-- Settles O35, field by field. -/
theorem extractReadsEveryField : Obligations.ExtractReadsEveryField := by
  intro rd c n m
  rw [extract]
  congr 1
  case e_freqOffset => exact congrArg BitVec.toInt fieldBits_freqOffset
  case e_timestamp => exact fieldBits_timestamp
  case e_crc16 => exact fieldBits_crc16
  case e_metrics => exact bytesAt_eq_map rd (2 * m) _
  case e_payload => exact bytesAt_eq_map rd n _
  case e_channel | e_modemId | e_snrAvg | e_rssiChanAvg | e_rssiSigAvg => exact fieldBits_of_byte rfl rfl
  case e_crcEn | e_crcError | e_syncError | e_headerError | e_timingSet =>
    exact fieldFlag_of_bit rfl (by decide)
  case e_codingRate | e_datarate | e_rssiChanNegDelta | e_rssiChanPosDelta | e_rssiSigNegDelta | e_rssiSigPosDelta =>
    exact fieldBits_of_bits rfl (by decide) (by decide)

/-! ## The checks of a pop (R131, R178 to R181) -/

/-- The checksum under the spec's table, as a sum of numbers. -/
theorem checksumOk_recordLayout {rd : Nat → Byte} {c n m : Nat} :
    checksumOk recordLayout rd c n m = true ↔
      ((bytesAt rd c (9 + n + 14 + 2 * m - 1)).map BitVec.toNat).sum % 256 =
        (rd (c + (9 + n + 14 + 2 * m) - 1)).toNat := by
  rw [checksumOk, beq_iff_eq, fieldBits_of_byte rfl rfl, recordLayout_checksum, ← BitVec.toNat_inj, csum8_toNat]
  rfl

/-- The metadata checks on the packet, as checks on its bytes (R112). -/
theorem metadataLegal_extract {rd : Nat → Byte} {c n m : Nat} :
    metadataLegal (extract recordLayout rd c n m) = true ↔
      (rd (c + 5)).toNat ≤ 17 ∧ ((rd (c + 5)).toNat ≤ 16 →
        (rd (c + 3)).toNat ≤ 9 ∧ 5 ≤ (rd (c + 4)).toNat / 16 ∧ (rd (c + 4)).toNat / 16 ≤ 12) := by
  have hsf : ((rd (c + 4)).extractLsb' 4 4).toNat = (rd (c + 4)).toNat / 16 := by
    have := (rd (c + 4)).isLt
    rw [BitVec.extractLsb'_toNat, Nat.shiftRight_eq_div_pow]
    omega
  simp only [metadataLegal, extractReadsEveryField rd c n m, hsf, Bool.and_eq_true, Bool.or_eq_true,
    decide_eq_true_eq, modemIdMax, loraModemIdMax, channelMax, sfMin, sfMax]
  omega

/-! ## The ends of a pop -/

theorem parse_of_not_complete {l : RecordLayout} {s : State}
    (hf : ∀ n m, frameAt l s.byte s.size.toNat s.cursor.toNat ≠ .complete n m) :
    s.parse l = .error .malformedBuffer := by
  cases hfr : frameAt l s.byte s.size.toNat s.cursor.toNat with
  | noSync => simp [State.parse, hfr]
  | incomplete => simp [State.parse, hfr]
  | complete n m => exact absurd hfr (hf n m)

theorem parse_of_illegal_metadata {l : RecordLayout} {s : State} {n m : Nat}
    (hf : frameAt l s.byte s.size.toNat s.cursor.toNat = .complete n m)
    (hc : checksumOk l s.byte s.cursor.toNat n m = true)
    (hm : metadataLegal (extract l s.byte s.cursor.toNat n m) = false) :
    s.parse l = .error .outOfRangeMetadata := by
  simp [State.parse, hf, hc, hm]

theorem exec_bufPop_of_parse_ok {s : State} {p : DecodedPacket} {r : Nat} (hb : s.size.toNat ≤ bufCap)
    (hp : s.parse recordLayout = .ok (p, r)) : exec .bufPop s = .next ((s.popped r).finish (some (.packet p))) := by
  change bufPopWith Config.board s = _
  rw [bufPopWith, withBuffer_of_le hb, board_layout, hp]

/-- Settles O34: the three checks of the parse hold, and the pop moves the cursor inside `size`. -/
theorem bufPopReturnsAValidRecord : Obligations.BufPopReturnsAValidRecord := by
  intro s c n m hb hcur h0 h1 hn hm hle hsum hmodem hlora
  subst hcur
  have hp : s.parse recordLayout = .ok (extract recordLayout s.byte s.cursor.toNat n m, recLen n m) :=
    parse_eq_ok.2 ⟨n, m, frameAt_recordLayout_eq_complete.2 ⟨⟨h0, h1⟩, hn, hm, hle⟩, rfl,
      checksumOk_recordLayout.2 hsum, rfl, metadataLegal_extract.2 ⟨hmodem, hlora⟩⟩
  exact ⟨_, exec_bufPop_of_parse_ok hb hp, popped_cursor_toNat hp, popped_packetCount_toNat s (recLen n m), rfl⟩

/-- Settles O36, check by check in the order of R275. -/
theorem bufPopFailuresChangeOnlyStatus : Obligations.BufPopFailuresChangeOnlyStatus := by
  intro s c n m r hb hcur hn hm hr
  subst hcur hr
  refine ⟨fun hbad => ?_, fun ⟨h0, h1, hle⟩ hsum => ?_, fun ⟨h0, h1, hle⟩ hsum hmeta => ?_⟩
  · refine exec_bufPop_of_parse_error hb (parse_of_not_complete fun n' m' hf => hbad ?_)
    obtain ⟨⟨h0, h1⟩, rfl, rfl, hle⟩ := frameAt_recordLayout_eq_complete.1 hf
    subst hn hm
    exact ⟨h0, h1, hle⟩
  · have hf := frameAt_recordLayout_eq_complete.2 ⟨⟨h0, h1⟩, hn, hm, hle⟩
    refine exec_bufPop_of_parse_error hb (parse_of_checksum_mismatch hf ?_)
    exact Bool.eq_false_iff.2 fun hok => hsum (checksumOk_recordLayout.1 hok)
  · have hf := frameAt_recordLayout_eq_complete.2 ⟨⟨h0, h1⟩, hn, hm, hle⟩
    refine exec_bufPop_of_parse_error hb (parse_of_illegal_metadata hf (checksumOk_recordLayout.2 hsum) ?_)
    refine Bool.eq_false_iff.2 fun hlegal => ?_
    obtain ⟨hmodem, hlora⟩ := metadataLegal_extract.1 hlegal
    omega

end Sys2Proof.Machine
end


section
/-! Proofs of the family `44_timing_correction.md`: the symbol duration, the time-on-air formula (R200 to R204) and
the corrections (R206 to R209). -/

namespace Sys2Proof.Machine

open Sys2Proof.Params

/-! ## The three operations on a legal and on an illegal spreading factor (U4) -/

section Outcomes

variable {bw : Bandwidth} {sf nPre : Nat} {cr : BitVec 3} {headerEn crcEn : Bool} {size : Byte} {s : State}

theorem exec_toa_of_sfLegal (h : SfLegal sf) : exec (.toa bw sf cr nPre headerEn crcEn size) s =
    .next (s.finish (some (.airtime (timeOnAir bw sf cr nPre headerEn crcEn size)))) := if_pos h

theorem exec_toa_of_not_sfLegal (h : ¬ SfLegal sf) : exec (.toa bw sf cr nPre headerEn crcEn size) s =
    .refused (.precondition .correctionOperands) := if_neg h

/-- A TOA that runs had a legal spreading factor, and shows the formula's results. -/
theorem sfLegal_and_output_of_exec_toa {t : State}
    (h : exec (.toa bw sf cr nPre headerEn crcEn size) s = .next t) :
    SfLegal sf ∧ t.output = some (.airtime (timeOnAir bw sf cr nPre headerEn crcEn size)) := by
  obtain ⟨hsf, ht⟩ := guarded_eq_next.1 h
  obtain rfl := Host.Outcome.next.inj ht
  exact ⟨hsf, State.finish_output _ _⟩

theorem exec_corrLegacy_of_sfLegal (h : SfLegal sf) : exec (.corrLegacy bw sf cr crcEn size) s =
    .next (s.finish (some (.correction (legacyCorrection Config.board bw sf cr crcEn size)))) := if_pos h

theorem exec_corrLegacy_of_not_sfLegal (h : ¬ SfLegal sf) : exec (.corrLegacy bw sf cr crcEn size) s =
    .refused (.precondition .correctionOperands) := if_neg h

theorem exec_corrPrec_of_sfLegal (h : SfLegal sf) : exec (.corrPrec bw sf cr crcEn size) s =
    .next (s.finish (some (.correction (precisionCorrection Config.board bw sf cr crcEn size)))) := if_pos h

end Outcomes

/-! ## The symbol duration (R201) -/

theorem bwDivisor_dvd_eight (bw : Bandwidth) : bwDivisor bw ∣ 8 := by
  cases bw <;> decide

theorem symbolUs_mul_bwDivisor (bw : Bandwidth) (sf : Nat) : symbolUs bw sf * bwDivisor bw = 2 ^ sf * 8 :=
  Nat.div_mul_cancel ((bwDivisor_dvd_eight bw).mul_left _)

/-- The bandwidth divides the 8 of R201, and at least a 2 of it is left. -/
theorem symbolUs_eq_mul (bw : Bandwidth) (sf : Nat) : symbolUs bw sf = 2 ^ sf * (8 / bwDivisor bw) :=
  Nat.mul_div_assoc _ (bwDivisor_dvd_eight bw)

theorem dvd_symbolUs {bw : Bandwidth} {sf : Nat} (h : sfMin ≤ sf) : 64 ∣ symbolUs bw sf := by
  rw [symbolUs_eq_mul]
  have heven : 2 ∣ 8 / bwDivisor bw := by cases bw <;> decide
  exact Nat.mul_dvd_mul (Nat.pow_dvd_pow 2 h) heven

theorem symbolUs_pos (bw : Bandwidth) (sf : Nat) : 0 < symbolUs bw sf := by
  have h : 0 < symbolUs bw sf * bwDivisor bw := by
    rw [symbolUs_mul_bwDivisor]
    positivity
  exact Nat.pos_of_mul_pos_right h

theorem symbolUs_le {bw : Bandwidth} {sf : Nat} (h : sf ≤ sfMax) : symbolUs bw sf ≤ 32768 :=
  calc symbolUs bw sf ≤ 2 ^ sf * 8 := Nat.div_le_self _ _
    _ ≤ 2 ^ 12 * 8 := Nat.mul_le_mul_right 8 (Nat.pow_le_pow_right (by decide) h)

/-! ## The payload symbols (R200, R202) -/

/-- R402: the natural division that rounds up is the ceiling of the exact quotient. -/
theorem ceilDiv_eq_ceil (x : Nat) {d : Nat} (hd : 0 < d) : (ceilDiv x d : ℤ) = ⌈(x : ℚ) / d⌉ := by
  have hle : ceilDiv x d * d ≤ x + d - 1 := Nat.div_mul_le_self _ _
  have hlt : x + d - 1 < ceilDiv x d * d + d := Nat.lt_div_mul_add hd
  have hbelow : ceilDiv x d * d < x + d := by omega
  have habove : x ≤ ceilDiv x d * d := by omega
  have hd' : (0 : ℚ) < d := by exact_mod_cast hd
  symm
  rw [Int.ceil_eq_iff, Int.cast_natCast, sub_lt_iff_lt_add, div_add_one hd'.ne', lt_div_iff₀ hd',
    div_le_iff₀ hd']
  exact_mod_cast And.intro hbelow habove

theorem two_mul_lowDatarate_le (sf : Nat) : 2 * lowDatarate sf ≤ sf := by
  unfold lowDatarate
  split <;> omega

/-- The divisor of R202's quotient is least at `sf = 5`, and never 0. -/
theorem twenty_le_symbolBits {sf : Nat} (h : sfMin ≤ sf) : 20 ≤ 4 * (sf - 2 * lowDatarate sf) := by
  have h5 : 5 ≤ sf := h
  unfold lowDatarate
  split <;> omega

theorem payloadSymbols_eq_ceil {sf : Nat} (h : sfMin ≤ sf) (cr : BitVec 3) (headerEn crcEn : Bool) (size : Byte) :
    (payloadSymbols sf cr headerEn crcEn size : ℤ) =
      ⌈((max 0 (headerBits sf headerEn crcEn size) : ℤ) : ℚ) / (4 * ((sf : ℚ) - 2 * (lowDatarate sf : ℚ)))⌉ *
        (cr.toNat + 4) := by
  have hpos := (by decide : 0 < 20).trans_le (twenty_le_symbolBits h)
  have hbits : (((max 0 (headerBits sf headerEn crcEn size)).toNat : ℤ) : ℚ) =
      ((max 0 (headerBits sf headerEn crcEn size) : ℤ) : ℚ) := by
    rw [Int.toNat_of_nonneg (le_max_left _ _)]
  have hden : ((4 * (sf - 2 * lowDatarate sf) : ℕ) : ℚ) = 4 * ((sf : ℚ) - 2 * (lowDatarate sf : ℚ)) := by
    push_cast [two_mul_lowDatarate_le sf]
    rfl
  rw [payloadSymbols, Nat.cast_mul, ceilDiv_eq_ceil _ hpos, ← Int.cast_natCast (R := ℚ), hbits, hden,
    Nat.cast_add, Nat.cast_ofNat]

/-- A payload has 255 bytes at the most (R111). -/
theorem headerBits_le {sf : Nat} (h : sfMin ≤ sf) (headerEn crcEn : Bool) (size : Byte) :
    headerBits sf headerEn crcEn size ≤ 2064 := by
  have h5 : 5 ≤ sf := h
  have hsize := size.isLt
  unfold headerBits
  split <;> split <;> split <;> omega

theorem payloadSymbols_le {sf : Nat} (h : sfMin ≤ sf) (cr : BitVec 3) (headerEn crcEn : Bool) (size : Byte) :
    payloadSymbols sf cr headerEn crcEn size ≤ 1144 := by
  have hbits := headerBits_le h headerEn crcEn size
  have hblock := twenty_le_symbolBits h
  have hceil : ceilDiv (max 0 (headerBits sf headerEn crcEn size)).toNat (4 * (sf - 2 * lowDatarate sf)) ≤ 104 := by
    refine Nat.lt_succ_iff.1 ((Nat.div_lt_iff_lt_mul (by omega)).2 ?_)
    omega
  have hcr : cr.toNat + 4 ≤ 11 := by
    have := cr.isLt
    omega
  exact Nat.mul_le_mul hceil hcr

/-! ## The total and the duration (R200, R203) -/

/-- The whole symbols of the total: all of it but the quarter symbol of the preamble. -/
def wholeSymbols (sf : Nat) (cr : BitVec 3) (nPre : Nat) (headerEn crcEn : Bool) (size : Byte) : Nat :=
  nPre + (if 7 ≤ sf then 4 else 6) + 8 + payloadSymbols sf cr headerEn crcEn size

section Airtime

variable (bw : Bandwidth) {sf : Nat} (cr : BitVec 3) {nPre : Nat} (headerEn crcEn : Bool) (size : Byte)

theorem timeOnAir_nTotal : (timeOnAir bw sf cr nPre headerEn crcEn size).nTotal =
    wholeSymbols sf cr nPre headerEn crcEn size + 1 / 4 := by
  simp only [timeOnAir, wholeSymbols]
  split <;> push_cast <;> ring

/-- The quarter symbol lasts whole microseconds, since the symbol duration is a multiple of 4. -/
theorem timeOnAir_duration (h : sfMin ≤ sf) : (timeOnAir bw sf cr nPre headerEn crcEn size).duration =
    (wholeSymbols sf cr nPre headerEn crcEn size * symbolUs bw sf + symbolUs bw sf / 4 : ℕ) := by
  have hquarter : ((symbolUs bw sf / 4 : ℕ) : ℚ) = symbolUs bw sf / 4 :=
    Nat.cast_div_charZero (Nat.dvd_trans (by decide) (dvd_symbolUs h))
  calc (timeOnAir bw sf cr nPre headerEn crcEn size).duration
      = (timeOnAir bw sf cr nPre headerEn crcEn size).nTotal * symbolUs bw sf := rfl
    _ = (wholeSymbols sf cr nPre headerEn crcEn size + 1 / 4) * symbolUs bw sf := by rw [timeOnAir_nTotal]
    _ = _ := by rw [Nat.cast_add, Nat.cast_mul, hquarter]; ring

theorem wholeSymbols_le (h : sfMin ≤ sf) (hpre : nPre ≤ 65535) :
    wholeSymbols sf cr nPre headerEn crcEn size ≤ 66693 := by
  have hpay := payloadSymbols_le h cr headerEn crcEn size
  unfold wholeSymbols
  split <;> omega

end Airtime

/-- Settles O39: the model's natural arithmetic is the exact arithmetic of the formula. -/
theorem toaFollowsItsFormula : Obligations.ToaFollowsItsFormula := by
  refine ⟨opcodeOf_code .toa, fun bw sf cr nPre headerEn crcEn size s => ⟨fun h => ?_, exec_toa_of_not_sfLegal⟩⟩
  refine ⟨_, exec_toa_of_sfLegal h, ?_, ?_, rfl, rfl⟩
  · have hsym := symbolUs_mul_bwDivisor bw sf
    cases bw <;> exact hsym
  · have hlow : (lowDatarate sf : ℚ) = if 11 ≤ sf then 1 else 0 := by
      unfold lowDatarate
      split <;> simp
    have hpay := payloadSymbols_eq_ceil h.1 cr headerEn crcEn size
    rw [hlow] at hpay
    exact hpay

/-- Settles O40: the quarter symbol is a whole number of microseconds, and the longest packet stays below `2^32`. -/
theorem durationIsAWholeNumberOfMicroseconds : Obligations.DurationIsAWholeNumberOfMicroseconds := by
  intro bw sf cr nPre headerEn crcEn size s t r hexec hout
  obtain ⟨⟨hmin, hmax⟩, hair⟩ := sfLegal_and_output_of_exec_toa hexec
  obtain rfl := Result.airtime.inj (Option.some.inj (hair.symm.trans hout))
  have hdvd := dvd_symbolUs (bw := bw) hmin
  have hsym := symbolUs_le (bw := bw) hmax
  refine ⟨hdvd, Nat.le_of_dvd (symbolUs_pos bw sf) hdvd, hsym, ⟨_, timeOnAir_nTotal ..⟩, _,
    timeOnAir_duration bw cr headerEn crcEn size hmin, fun hpre => ?_⟩
  have hprod := Nat.mul_le_mul (wholeSymbols_le cr headerEn crcEn size hmin hpre) hsym
  omega

/-! ## The corrections (R206, R207, R209) -/

/-- R207, of every configuration (log 8). -/
theorem legacyCorrection_bounds (c : Config) (bw : Bandwidth) (sf : Nat) (cr : BitVec 3) (crcEn : Bool)
    (size : Byte) :
    -2 ^ 31 < legacyCorrection c bw sf cr crcEn size ∧ legacyCorrection c bw sf cr crcEn size ≤ 0 := by
  have hlt := (c.legacyAdvance bw sf cr crcEn size).isLt
  unfold legacyCorrection
  omega

/-- Settles O41: the advance is the configuration's, chosen before the state. -/
theorem corrLegacyIsAnAdvance : Obligations.CorrLegacyIsAnAdvance := by
  intro bw sf cr crcEn size
  refine ⟨fun h => ?_, fun h s => exec_corrLegacy_of_not_sfLegal h⟩
  obtain ⟨habove, hbelow⟩ := legacyCorrection_bounds Config.board bw sf cr crcEn size
  exact ⟨_, habove, hbelow, fun s => exec_corrLegacy_of_sfLegal h⟩

/-- Settles O42: TOA and CORR_PREC evaluate the same formula. -/
theorem corrPrecIsPayloadAirtimePlusFilter : Obligations.CorrPrecIsPayloadAirtimePlusFilter :=
  ⟨opcodeOf_code .corrPrec, fun _ _ _ _ _ _ h =>
    ⟨_, _, exec_toa_of_sfLegal h, State.finish_output _ _, exec_corrPrec_of_sfLegal h⟩⟩

end Sys2Proof.Machine
end

section
/-! Proofs of the family `45_fine_timestamp.md`: NOTCH (R220) and the six steps of FTIME_CALC (R223 to R233). -/

namespace Sys2Proof.Machine

open Sys2Proof.Params

/-! ## The notch (R220) -/

/-- The notch's bounds in kHz are whole numbers of Hz. -/
theorem outside_notchRange_iff (f : Word) :
    ((f.toInt : ℚ) / 1000 < -notchRangeKhz ∨ notchRangeKhz < (f.toInt : ℚ) / 1000) ↔
      f.toInt < -75000 ∨ 75000 < f.toInt := by
  have hkhz : (0 : ℚ) < 1000 := by norm_num
  have hlo : -notchRangeKhz * 1000 = ((-75000 : ℤ) : ℚ) := by norm_num
  have hhi : notchRangeKhz * 1000 = ((75000 : ℤ) : ℚ) := by norm_num
  rw [div_lt_iff₀ hkhz, lt_div_iff₀ hkhz, hlo, hhi, Int.cast_lt, Int.cast_lt]

theorem notchDelay_of_outside (c : Config) {f : Word} (h : f.toInt < -75000 ∨ 75000 < f.toInt) :
    notchDelay c f = 0 := if_pos ((outside_notchRange_iff f).2 h)

theorem notchDelay_of_inside (c : Config) {f : Word} (h : -75000 ≤ f.toInt ∧ f.toInt ≤ 75000) :
    notchDelay c f = c.notchC4 * ((f.toInt : ℚ) / 1000) ^ 4 + c.notchC3 * ((f.toInt : ℚ) / 1000) ^ 3
      + c.notchC2 * ((f.toInt : ℚ) / 1000) ^ 2 + c.notchC1 * ((f.toInt : ℚ) / 1000) + c.notchC0 :=
  if_neg fun hout => by
    have := (outside_notchRange_iff f).1 hout
    omega

/-- Settles O43. -/
theorem notchIsAQuarticInsideItsBand : Obligations.NotchIsAQuarticInsideItsBand :=
  ⟨opcodeOf_code .notch, fun _ _ =>
    ⟨_, rfl, notchDelay_of_outside Config.board, notchDelay_of_inside Config.board⟩⟩

/-! ## The crystal check of step 5 (R230) -/

/-- The bounds of the factor, as bounds of the interval in ticks: `32e6 / 1.2` lies between two ticks, and
`32e6 / 0.8` on one. -/
theorem outside_xtalRange_iff {n : Nat} (hn : n ≠ 0) :
    ((tickHz : ℚ) / n < xtalMin ∨ xtalMax < (tickHz : ℚ) / n) ↔ ¬ (26666667 ≤ n ∧ n ≤ 40000000) := by
  have hpos : (0 : ℚ) < n := Nat.cast_pos.2 (Nat.pos_of_ne_zero hn)
  have hlong : (tickHz : ℚ) / n < xtalMin ↔ 40000000 < n := by
    have hscale : xtalMin * n = 4 / 5 * (n : ℚ) := rfl
    rw [div_lt_iff₀ hpos, hscale, ← Nat.cast_lt (α := ℚ)]
    push_cast
    constructor <;> intro h <;> linarith
  have hshort : xtalMax < (tickHz : ℚ) / n ↔ 6 * n < 160000000 := by
    have hscale : xtalMax * n = 6 / 5 * (n : ℚ) := rfl
    rw [lt_div_iff₀ hpos, hscale, ← Nat.cast_lt (α := ℚ)]
    push_cast
    constructor <;> intro h <;> linarith
  rw [hlong, hshort]
  omega

theorem crystalFactor_of_pass {n : Nat} (h : 26666667 ≤ n ∧ n ≤ 40000000) :
    crystalFactor n = .ok (32000000 / (n : ℚ)) := by
  have hn : n ≠ 0 := by omega
  rw [crystalFactor, if_neg hn, if_neg ((outside_xtalRange_iff hn).not_left.2 h), Nat.cast_ofNat]

theorem crystalFactor_of_fail {n : Nat} (h : ¬ (26666667 ≤ n ∧ n ≤ 40000000)) :
    crystalFactor n = .error .crystalErrorOutOfRange := by
  by_cases hn : n = 0
  · rw [crystalFactor, if_pos hn]
  · rw [crystalFactor, if_neg hn, if_pos ((outside_xtalRange_iff hn).2 h)]

/-- Settles O45. -/
theorem crystalCheckInTicks : Obligations.CrystalCheckInTicks :=
  fun _ => ⟨crystalFactor_of_pass, crystalFactor_of_fail⟩

/-! ## The aligned timestamp and the metric mean (R225, R227) -/

theorem alignedTimestamp_eq {rawTs aligned : Word} {sf : Nat} {freqError : ℚ}
    (h : Aligned rawTs sf freqError aligned) : alignedTimestamp rawTs sf freqError = aligned := by
  obtain ⟨off, rfl, h⟩ := h
  refine BitVec.eq_of_toNat_eq (Int.ofNat_inj.1 (Eq.trans ?_ h.symm))
  rw [alignedTimestamp, BitVec.toNat_ofInt, Int.toNat_of_nonneg (Int.emod_nonneg _ (by decide))]
  rfl

/-- The sum of the cumulative sums: every one of them holds the initial value and the deltas up to its own. -/
theorem sum_cumulative (ds : List Int) : ∀ acc : Int, (cumulative acc ds).sum =
    ds.length * acc + ∑ i ∈ Finset.range ds.length, ∑ l ∈ Finset.range (i + 1), ds.getD l 0 := by
  induction ds with
  | nil => simp [cumulative]
  | cons d ds ih =>
    intro acc
    have hsplit : ∀ i, ∑ l ∈ Finset.range (i + 1), (d :: ds).getD l 0 =
        ∑ l ∈ Finset.range i, ds.getD l 0 + d := fun i => by
      rw [Finset.sum_range_succ']
      simp
    calc (cumulative acc (d :: ds)).sum
        = (acc + d) + (ds.length * (acc + d) +
            ∑ i ∈ Finset.range ds.length, ∑ l ∈ Finset.range (i + 1), ds.getD l 0) := by
          rw [cumulative, List.sum_cons, ih]
      _ = _ := by
          simp only [hsplit, Finset.sum_add_distrib, Finset.sum_range_succ' _ ds.length, List.length_cons,
            Finset.sum_const, Finset.card_range, Finset.sum_range_zero, nsmul_eq_mul]
          push_cast
          ring

theorem metricMean_eq {metrics : List Byte} {m : Byte} {sf : Nat} {mean : ℚ}
    (hlen : metrics.length = 2 * m.toNat) (h : Mean metrics m sf mean) :
    metricMean metrics m.toNat sf = mean := by
  obtain ⟨k, hk, rfl⟩ := h
  have hused : 2 * min m.toNat (metricClip sf) = k := hk.symm
  have hcount : ((metrics.take k).map BitVec.toInt).length = k := by
    rw [List.length_map, List.length_take, hlen]
    omega
  have hdelta : ∀ l < k, ((metrics.take k).map BitVec.toInt).getD l 0 = (metrics.getD l 0#8).toInt :=
    fun l hl => by
      have hlt : l < metrics.length := by omega
      simp [List.getD_eq_getElem?_getD, hl, hlt]
  rw [metricMean, hused, sum_cumulative, hcount, mul_zero, zero_add, Int.cast_sum]
  congr 1
  refine Finset.sum_congr rfl fun i hi => ?_
  rw [Int.cast_sum]
  refine Finset.sum_congr rfl fun l hl => ?_
  rw [Finset.mem_range] at hi hl
  rw [hdelta l (by omega)]

/-! ## The reference of step 4 (R228, R229) -/

theorem reference_of_references {s : State} {aligned live ref : Word} {j : BitVec 4}
    (h : s.References aligned live ref j) : s.reference aligned live = .ok (ref, j) := by
  refine reference_eq_ok.2 ?_
  obtain hlive | ⟨hstale, rfl, hedge, hfirst⟩ := h
  · exact .inl hlive
  · exact .inr ⟨hstale, j.toFin, findEdge_eq_some.2 ⟨hedge, fun i hi => hfirst (.ofFin i) hi⟩, rfl, rfl⟩

/-- Step 4 fails in one way: the live value is stale and the scan finds no edge. -/
theorem reference_eq_error {s : State} {aligned live : Word} {f : Failure} :
    s.reference aligned live = .error f ↔
      (tickHz < sub32 aligned live ∧ s.findEdge aligned = none) ∧ f = .insufficientHistory := by
  unfold State.reference
  by_cases h : tickHz < sub32 aligned live
  · rw [if_pos h]
    cases s.findEdge aligned <;> simp [h, eq_comm]
  · simp [h]

theorem reference_of_no_edge {s : State} {aligned live : Word} (hstale : 32000000 < (aligned - live).toNat)
    (hedge : ∀ i, 32000000 ≤ (aligned - s.slotAt i).toNat) :
    s.reference aligned live = .error .insufficientHistory :=
  reference_eq_error.2 ⟨⟨hstale, findEdge_eq_none.2 fun i => hedge (.ofFin i)⟩, rfl⟩

/-! ## The result of step 6 (R232) -/

/-- The floor of a `t` in range fits its 32 bits. -/
theorem fineResult_toNat {t : ℚ} {v : Word} (h : fineResult t = .ok v) :
    (v.toNat : ℤ) = ⌊t⌋ ∧ v.toNat < ftimeLimit := by
  obtain ⟨⟨hlo, hhi⟩, rfl⟩ := fineResult_eq_ok.1 h
  have hfloor : 0 ≤ ⌊t⌋ := Int.floor_nonneg.2 hlo
  have hlimit : ⌊t⌋ < 1000000000 := Int.floor_lt.2 hhi
  have hfits : (BitVec.ofNat 32 ⌊t⌋.toNat).toNat = ⌊t⌋.toNat := by
    rw [BitVec.toNat_ofNat]
    omega
  rw [hfits, Int.toNat_of_nonneg hfloor]
  exact ⟨rfl, (Int.toNat_lt hfloor).2 hlimit⟩

theorem fineResult_of_overflow {t : ℚ} (h : t < 0 ∨ 1000000000 ≤ t) :
    fineResult t = .error .fineTimestampOverflow :=
  if_pos (by rwa [Nat.cast_ofNat])

/-! ## The six steps in order (R223, R233) -/

section Steps

variable {c : Config} {s : State} {metrics : List Byte} {m : Byte} {rawTs : Word} {sf : Nat} {ifFreqHz : Word}
  {freqError : ℚ} {livePps : Word}

theorem exec_ftimeCalc (h : FineLegal metrics m sf) :
    exec (.ftimeCalc metrics m rawTs sf ifFreqHz freqError livePps) s =
      s.conclude ((s.fineTime Config.board metrics m rawTs sf ifFreqHz freqError livePps).map .fine) := if_pos h

theorem fineTime_of_short_ring (h : s.fill.toNat < 16) :
    s.fineTime c metrics m rawTs sf ifFreqHz freqError livePps = .error .insufficientHistory := if_pos h

section FullRing

variable (hfull : 16 ≤ s.fill.toNat)

include hfull

/-- Past the ring's check the steps run one after another, and the first failure ends them (R233). -/
theorem fineTime_of_full_ring : s.fineTime c metrics m rawTs sf ifFreqHz freqError livePps =
    (s.reference (alignedTimestamp rawTs sf freqError) livePps).bind fun r =>
      (crystalFactor (s.interval r.2)).bind fun xtal =>
        fineResult (fineOffsetNs c (alignedTimestamp rawTs sf freqError) r.1 (metricMean metrics m.toNat sf)
          ifFreqHz xtal) := by
  have hfill : ¬ s.fill < 16#5 := Nat.not_lt.2 hfull
  rw [State.fineTime, if_neg hfill]
  dsimp only
  cases s.reference (alignedTimestamp rawTs sf freqError) livePps with
  | error f => rfl
  | ok r =>
    dsimp only [Except.bind]
    cases crystalFactor (s.interval r.2) <;> rfl

theorem fineTime_of_reference_error {f : Failure}
    (href : s.reference (alignedTimestamp rawTs sf freqError) livePps = .error f) :
    s.fineTime c metrics m rawTs sf ifFreqHz freqError livePps = .error f := by
  rw [fineTime_of_full_ring hfull, href]
  rfl

variable {ref : Word} {j : BitVec 4}
  (href : s.reference (alignedTimestamp rawTs sf freqError) livePps = .ok (ref, j))

include href

theorem fineTime_of_crystal_error {f : Failure} (hxtal : crystalFactor (s.interval j) = .error f) :
    s.fineTime c metrics m rawTs sf ifFreqHz freqError livePps = .error f := by
  rw [fineTime_of_full_ring hfull, href, Except.bind, hxtal, Except.bind]

theorem fineTime_of_crystal_ok {xtal : ℚ} (hxtal : crystalFactor (s.interval j) = .ok xtal) :
    s.fineTime c metrics m rawTs sf ifFreqHz freqError livePps =
      fineResult (fineOffsetNs c (alignedTimestamp rawTs sf freqError) ref (metricMean metrics m.toNat sf)
        ifFreqHz xtal) := by
  rw [fineTime_of_full_ring hfull, href, Except.bind, hxtal, Except.bind]

end FullRing

theorem exec_ftimeCalc_of_ok (h : FineLegal metrics m sf) {v : Word}
    (hv : s.fineTime Config.board metrics m rawTs sf ifFreqHz freqError livePps = .ok v) :
    exec (.ftimeCalc metrics m rawTs sf ifFreqHz freqError livePps) s = .next (s.finish (some (.fine v))) := by
  rw [exec_ftimeCalc h, hv]
  rfl

theorem exec_ftimeCalc_of_error (h : FineLegal metrics m sf) {f : Failure}
    (hf : s.fineTime Config.board metrics m rawTs sf ifFreqHz freqError livePps = .error f) :
    exec (.ftimeCalc metrics m rawTs sf ifFreqHz freqError livePps) s = .next (s.fail f) := by
  rw [exec_ftimeCalc h, hf]
  rfl

/-- With a reference and a passing interval, what is left of the six steps is the result of `t`, in the terms of
R223. -/
theorem fineTime_eq_fineResult (hfull : 16 ≤ s.fill.toNat) (hlen : metrics.length = 2 * m.toNat) {aligned ref : Word}
    {mean : ℚ} {j : BitVec 4} (ha : Aligned rawTs sf freqError aligned) (hmean : Mean metrics m sf mean)
    (href : s.References aligned livePps ref j)
    (hpass : 26666667 ≤ s.interval j ∧ s.interval j ≤ 40000000) :
    s.fineTime c metrics m rawTs sf ifFreqHz freqError livePps =
      fineResult (((aligned - ref).toNat + mean + notchDelay c ifFreqHz) * (125 / 4)
        * (32000000 / (s.interval j : ℚ))) := by
  obtain rfl := alignedTimestamp_eq ha
  obtain rfl := metricMean_eq hlen hmean
  rw [fineTime_of_crystal_ok hfull (reference_of_references href) (crystalFactor_of_pass hpass)]
  rfl

end Steps

/-- The ends of the six steps: a full ring and a result in range, or a failure of one of the codes 5, 6, 7. -/
theorem fineTime_cases (c : Config) (s : State) (metrics : List Byte) (m : Byte) (rawTs : Word) (sf : Nat)
    (ifFreqHz : Word) (freqError : ℚ) (livePps : Word) :
    (∃ v : Word, v.toNat < ftimeLimit ∧ 16 ≤ s.fill.toNat ∧
      s.fineTime c metrics m rawTs sf ifFreqHz freqError livePps = .ok v) ∨
    ∃ f, failureCode f ∈ [5#8, 6#8, 7#8] ∧
      s.fineTime c metrics m rawTs sf ifFreqHz freqError livePps = .error f := by
  obtain hshort | hfull := Nat.lt_or_ge s.fill.toNat 16
  · exact .inr ⟨_, by decide, fineTime_of_short_ring hshort⟩
  cases href : s.reference (alignedTimestamp rawTs sf freqError) livePps with
  | error f =>
    obtain ⟨-, rfl⟩ := reference_eq_error.1 href
    exact .inr ⟨_, by decide, fineTime_of_reference_error hfull href⟩
  | ok r =>
    obtain ⟨ref, j⟩ := r
    by_cases hpass : 26666667 ≤ s.interval j ∧ s.interval j ≤ 40000000
    · rw [fineTime_of_crystal_ok hfull href (crystalFactor_of_pass hpass)]
      generalize fineOffsetNs c _ ref _ ifFreqHz _ = t
      by_cases ht : t < 0 ∨ 1000000000 ≤ t
      · exact .inr ⟨_, by decide, fineResult_of_overflow ht⟩
      · push Not at ht
        have hv := fineResult_eq_ok.2 ⟨⟨ht.1, by rw [Nat.cast_ofNat]; exact ht.2⟩, rfl⟩
        exact .inl ⟨_, (fineResult_toNat hv).2, hfull, hv⟩
    · exact .inr ⟨_, by decide, fineTime_of_crystal_error hfull href (crystalFactor_of_fail hpass)⟩

/-- Settles O44. -/
theorem ftimeCalcNeedsAFullRing : Obligations.FtimeCalcNeedsAFullRing :=
  fun _ _ _ _ _ _ _ _ hlegal hshort => exec_ftimeCalc_of_error hlegal (fineTime_of_short_ring hshort)

/-- Settles O46: the result of `t` is its floor, which fits 32 bits. -/
theorem ftimeCalcReturnsTheFloor : Obligations.FtimeCalcReturnsTheFloor := by
  intro metrics m rawTs sf ifFreqHz freqError livePps s aligned ref mean t j hm hlen hmin hmax hfull ha hmean href
    hlo hhi ht h0 hlimit
  have hsteps := fineTime_eq_fineResult (c := Config.board) (ifFreqHz := ifFreqHz) hfull hlen ha hmean href ⟨hlo, hhi⟩
  have hv : fineResult t = .ok _ := fineResult_eq_ok.2 ⟨⟨h0, by rwa [Nat.cast_ofNat]⟩, rfl⟩
  refine ⟨_, (fineResult_toNat hv).1, exec_ftimeCalc_of_ok ⟨hm, hlen, hmin, hmax⟩ ?_⟩
  rw [ht] at hv ⊢
  exact hsteps.trans hv

/-- Settles O47, failure by failure in the order of the steps. -/
theorem ftimeCalcEndsInRangeOrFails : Obligations.FtimeCalcEndsInRangeOrFails := by
  intro metrics m rawTs sf ifFreqHz freqError livePps s hlegal endsWith
  have ⟨_, hlen, _⟩ := hlegal
  refine ⟨?_, fun hshort => exec_ftimeCalc_of_error hlegal (fineTime_of_short_ring hshort), ?_⟩
  · obtain ⟨v, hv, hfull, hok⟩ | ⟨f, hf, herr⟩ :=
      fineTime_cases Config.board s metrics m rawTs sf ifFreqHz freqError livePps
    · exact .inl ⟨v, hv, hfull, exec_ftimeCalc_of_ok hlegal hok⟩
    · exact .inr ⟨failureCode f, hf, exec_ftimeCalc_of_error hlegal herr⟩
  · intro aligned mean hfull ha hmean
    have haligned := alignedTimestamp_eq ha
    refine ⟨fun hstale hedge => ?_, fun ref j interval href hint => ⟨fun hfail => ?_, fun hpass t ht hover => ?_⟩⟩
    · exact exec_ftimeCalc_of_error hlegal
        (fineTime_of_reference_error hfull (haligned ▸ reference_of_no_edge hstale hedge))
    · subst hint
      exact exec_ftimeCalc_of_error hlegal (fineTime_of_crystal_error hfull
        (haligned ▸ reference_of_references href) (crystalFactor_of_fail hfail))
    · subst hint ht
      exact exec_ftimeCalc_of_error hlegal
        ((fineTime_eq_fineResult hfull hlen ha hmean href hpass).trans (fineResult_of_overflow hover))

end Sys2Proof.Machine
end

section
/-! Proofs of the family `46_assembler.md`: what PKT_ASM does with one packet (R240 to R255, R260, R261). -/

namespace Sys2Proof.Machine

open Sys2Proof.Params

/-! ## The conditions of the rules (R240, R243, R245 to R247, R252) -/

section Conditions

variable {c : Config} {kind : IfMod} {p : DecodedPacket}

theorem isLora_iff : isLora kind = true ↔ kind ≠ .fsk := by cases kind <;> decide

theorem loraOk_iff : loraOk kind p = true ↔ kind ≠ .fsk ∧ SfLegal p.datarate.toNat := by
  rw [loraOk, Bool.and_eq_true, isLora_iff, decide_eq_true_eq]

theorem codesLegal_iff : codesLegal kind p = true ↔
    (kind ≠ .fsk ∧ SfLegal p.datarate.toNat) ∧ crMin ≤ p.codingRate.toNat ∧ p.codingRate.toNat ≤ crMax := by
  rw [codesLegal, Bool.and_eq_true, loraOk_iff, decide_eq_true_eq]

theorem crc16Rejects_iff : crc16Rejects c kind p = true ↔
    kind ≠ .fsk ∧ p.crcEn = true ∧ crc16 c p.payload ≠ p.crc16 := by
  rw [crc16Rejects, Bool.and_eq_true, Bool.and_eq_true, isLora_iff, bne_iff_ne, and_assoc]

/-- R245: the packet is kept where the comparison does not apply or matches. -/
theorem crc16Rejects_eq_false (h : kind ≠ .fsk → p.crcEn = true → crc16 c p.payload = p.crc16) :
    crc16Rejects c kind p = false :=
  Bool.eq_false_iff.2 fun hrej =>
    have ⟨hkind, hen, hne⟩ := crc16Rejects_iff.1 hrej
    hne (h hkind hen)

theorem crcPassed_iff : crcPassed p = true ↔ p.crcEn = true ∧ p.crcError = false := by
  rw [crcPassed, Bool.and_eq_true, Bool.not_eq_true']

theorem fineEligible_iff : fineEligible kind p = true ↔
    (kind ≠ .fsk ∧ SfLegal p.datarate.toNat) ∧ 1 ≤ p.numMetrics.toNat ∧ p.timingSet = true ∧
      crcPassed p = true := by
  rw [fineEligible, Bool.and_eq_true, Bool.and_eq_true, Bool.and_eq_true, loraOk_iff, decide_eq_true_eq, and_assoc,
    and_assoc]

end Conditions

/-! ## The computed fields of a record (R243 to R251) -/

section ComputedFields

variable {kind : IfMod} {p : DecodedPacket}

theorem modulation_eq (kind : IfMod) :
    (if isLora kind then Modulation.lora else .fsk) = if kind = .fsk then .fsk else .lora := by
  cases kind <;> rfl

theorem spreadingOf_mem {n : Nat} (h : SfLegal n) : (n, spreadingOf n) ∈ [(5, .sf5), (6, .sf6), (7, .sf7), (8, .sf8),
    (9, .sf9), (10, .sf10), (11, .sf11), (12, .sf12)] := by
  obtain ⟨hlo, hhi⟩ := h
  interval_cases n <;> decide

theorem codingRateOf_mem {n : Nat} (hlo : crMin ≤ n) (hhi : n ≤ crMax) :
    (n, codingRateOf n) ∈ [(1, .cr45), (2, .cr46), (3, .cr47), (4, .cr48)] := by
  interval_cases n <;> decide

theorem freqOffsetHz_of_lora (h : kind ≠ .fsk) (bw : Bandwidth) (ifHz : Int) : freqOffsetHz kind bw ifHz p =
    (p.freqOffset * lsbMicroHz bw).tdiv 1000000 + (ifHz - ((ifHz * 32).tdiv 15625 * 15625).tdiv 32) :=
  if_pos (isLora_iff.2 h)

/-- R250: the coarse correction of a LoRa packet is what the single operation hands over. -/
theorem exec_correction (h : kind ≠ .fsk) (hsf : SfLegal p.datarate.toNat) (bw : Bandwidth) (s : State) :
    exec (if Config.board.ftimeEn
        then .corrPrec bw p.datarate.toNat p.codingRate p.crcEn p.payloadLen
        else .corrLegacy bw p.datarate.toNat p.codingRate p.crcEn p.payloadLen) s =
      .next (s.finish (some (.correction (coarseCorrection Config.board kind bw p)))) := by
  rw [coarseCorrection, if_pos (isLora_iff.2 h), if_pos (loraOk_iff.2 ⟨h, hsf⟩)]
  by_cases hen : Config.board.ftimeEn = true
  · rw [if_pos hen, if_pos hen, exec_corrPrec_of_sfLegal hsf]
  · rw [if_neg hen, if_neg hen, exec_corrLegacy_of_sfLegal hsf]

/-- R261: a LoRa packet whose SF code is out of range is not corrected. -/
theorem coarseCorrection_of_not_sfLegal (c : Config) (h : kind ≠ .fsk) (hsf : ¬ SfLegal p.datarate.toNat)
    (bw : Bandwidth) : coarseCorrection c kind bw p = 0 := by
  rw [coarseCorrection, if_pos (isLora_iff.2 h), if_neg fun hok => hsf (loraOk_iff.1 hok).2]

theorem raw27Of_eq_ofNat (w : Word) : raw27Of w = BitVec.ofNat 27 (w.toNat / 32) := by
  rw [← raw27Of_toNat, BitVec.ofNat_toNat, BitVec.setWidth_eq]

theorem countUs_toNat (expanded : Word) (corr : Int) :
    ((countUs expanded corr).toNat : ℤ) = (expanded.toNat + corr) % 2 ^ 32 := by
  rw [countUs, BitVec.toNat_ofInt, Int.toNat_of_nonneg (Int.emod_nonneg _ (by decide))]
  rfl

end ComputedFields

/-! ## The fine timestamp of a packet (R252 to R254) -/

section Overlay

variable {c : Config} {s : State} {ch : Fin 10} {freqHz : Nat} {p : DecodedPacket} {live : Word}

theorem fineOverlay_of_not_eligible (h : ¬ fineEligible (c.ifMod.get ch) p = true) :
    fineOverlay c s ch freqHz p live = none := if_neg h

theorem fineOverlay_of_eligible (h : fineEligible (c.ifMod.get ch) p = true) :
    fineOverlay c s ch freqHz p live = (s.fineTime c p.metrics p.numMetrics p.timestamp p.datarate.toNat
      (c.ifFreq.get ch) ((freqOffsetHz (c.ifMod.get ch) (c.bw.get ch) (c.ifFreqHz ch) p : ℚ) / freqHz)
      live).toOption := if_pos h

/-- R252, R232: where there is a fine timestamp, the packet is eligible, the ring full and the value in range. -/
theorem fineOverlay_eq_some {v : Word} (h : fineOverlay c s ch freqHz p live = some v) :
    fineEligible (c.ifMod.get ch) p = true ∧ 16 ≤ s.fill.toNat ∧ v.toNat < ftimeLimit := by
  by_cases hel : fineEligible (c.ifMod.get ch) p = true
  · rw [fineOverlay_of_eligible hel] at h
    obtain ⟨w, hw, hfull, hok⟩ | ⟨f, -, hf⟩ := fineTime_cases c s p.metrics p.numMetrics p.timestamp p.datarate.toNat
      (c.ifFreq.get ch) ((freqOffsetHz (c.ifMod.get ch) (c.bw.get ch) (c.ifFreqHz ch) p : ℚ) / freqHz) live
    · rw [hok] at h
      obtain rfl := Option.some.inj h
      exact ⟨hel, hfull, hw⟩
    · rw [hf] at h
      cases h
  · rw [fineOverlay_of_not_eligible hel] at h
    cases h

/-- R253, R254: FTIME_CALC on the packet's operands hands over the overlay, or fails where there is none. -/
theorem fineOverlay_of_ftimeCalcWith {u : State} (hel : fineEligible (c.ifMod.get ch) p = true)
    (h : ftimeCalcWith c p.metrics p.numMetrics p.timestamp p.datarate.toNat (c.ifFreq.get ch)
      ((freqOffsetHz (c.ifMod.get ch) (c.bw.get ch) (c.ifFreqHz ch) p : ℚ) / freqHz) live s = .next u) :
    (∀ v, u.output = some (.fine v) → fineOverlay c s ch freqHz p live = some v) ∧
      (u.output = none → fineOverlay c s ch freqHz p live = none) := by
  obtain ⟨-, hend⟩ := guarded_eq_next.1 h
  rw [fineOverlay_of_eligible hel]
  generalize s.fineTime c _ _ _ _ _ _ _ = e at hend ⊢
  cases e with
  | ok w =>
    obtain rfl := Host.Outcome.next.inj hend
    exact ⟨fun v hv => by cases hv; rfl, nofun⟩
  | error f =>
    obtain rfl := Host.Outcome.next.inj hend
    exact ⟨nofun, fun _ => rfl⟩

/-- The two fine timestamp fields say whether there is one (R46). -/
theorem buildRecord_of_fineOverlay_none (h : fineOverlay c s ch freqHz p live = none) :
    (buildRecord c s ch freqHz p live).ftimePresent = false ∧
      (buildRecord c s ch freqHz p live).ftimeNs = 0#32 := by
  simp only [buildRecord, h, Option.isSome_none, Option.getD_none, and_self]

theorem buildRecord_of_fineOverlay_some {v : Word} (h : fineOverlay c s ch freqHz p live = some v) :
    (buildRecord c s ch freqHz p live).ftimePresent = true ∧ (buildRecord c s ch freqHz p live).ftimeNs = v := by
  simp only [buildRecord, h, Option.isSome_some, Option.getD_some, and_self]

/-- R252, R254: apart from those two fields a record reads the state's `inst` domain only. -/
theorem buildRecord_eq_of_inst_eq {s' : State} {live' : Word} (h : s'.inst = s.inst) :
    buildRecord c s' ch freqHz p live' =
      { buildRecord c s ch freqHz p live with
        ftimePresent := (buildRecord c s' ch freqHz p live').ftimePresent
        ftimeNs := (buildRecord c s' ch freqHz p live').ftimeNs } := by
  simp only [buildRecord, State.pktExpand, h]

end Overlay

/-- A pop writes nothing that the record is built from. -/
theorem buildRecord_popped (c : Config) (s : State) (r : Nat) (ch : Fin 10) (freqHz : Nat) (p : DecodedPacket)
    (live : Word) : buildRecord c (s.popped r) ch freqHz p live = buildRecord c s ch freqHz p live := rfl

theorem popped_eq (s : State) (r : Nat) : s.popped r =
    { s with
      cursor := BitVec.ofNat 13 (s.cursor.toNat + r)
      packetCount := BitVec.ofNat 8 (s.packetCount.toNat - 1) } := by
  have hcount : (s.popped r).packetCount = BitVec.ofNat 8 (s.packetCount.toNat - 1) := by
    rw [← popped_packetCount_toNat s r, BitVec.ofNat_toNat, BitVec.setWidth_eq]
  rw [← hcount]
  rfl

/-! ## The ends of PKT_ASM, each under its condition -/

theorem exec_pktAsm (live : Word) (s : State) : exec (.pktAsm live) s = pktAsmWith Config.board live s := rfl

section Ends

variable {c : Config} {s : State} {live : Word}

theorem pktAsmWith_of_assemble {u : State} {e : Except Failure NormalizedRxRecord}
    (h : s.assemble c live = .next (u, e)) : pktAsmWith c live s = u.conclude (e.map .record) := by
  rw [pktAsmWith, h]

variable (hb : s.size.toNat ≤ bufCap)

include hb

/-- R241: a failed pop discards the buffer. -/
theorem assemble_of_parse_error {f : Failure} (hp : s.parse c.layout = .error f) :
    s.assemble c live = .next (s.clearBuffer, .error f) := by
  rw [State.assemble, withBuffer_of_le hb, hp]

variable {p : DecodedPacket} {r : Nat} (hp : s.parse c.layout = .ok (p, r))

include hp

/-- R242: a popped record with a channel above 9 discards the buffer. -/
theorem assemble_of_high_channel (hch : ¬ p.channel.toNat < 10) :
    s.assemble c live = .next (s.clearBuffer, .error .outOfRangeMetadata) := by
  rw [State.assemble, withBuffer_of_le hb, hp]
  exact dif_neg hch

variable {ch : Fin 10} {freqHz : Nat} (hch : p.channel.toNat = ch.val) (hf : c.centreHz ch = some freqHz)

include hch hf

theorem assemble_of_channel : s.assemble c live =
    if crc16Rejects c (c.ifMod.get ch) p then .next (s.popped r, .error .crc16Mismatch)
    else .next (s.popped r, .ok (buildRecord c s ch freqHz p live)) := by
  have hlt : p.channel.toNat < 10 := hch.trans_lt ch.isLt
  have hfin : (⟨p.channel.toNat, hlt⟩ : Fin 10) = ch := Fin.ext hch
  rw [State.assemble, withBuffer_of_le hb, hp]
  simp only [State.assemblePacket, hlt, dif_pos, hfin, hf, buildRecord_popped]

/-- R245: the comparison rejects the packet and keeps the buffer. -/
theorem assemble_of_crc16Rejects (hx : crc16Rejects c (c.ifMod.get ch) p = true) :
    s.assemble c live = .next (s.popped r, .error .crc16Mismatch) := by
  rw [assemble_of_channel hb hp hch hf, if_pos hx]

theorem assemble_of_accepted (hx : crc16Rejects c (c.ifMod.get ch) p = false) :
    s.assemble c live = .next (s.popped r, .ok (buildRecord c s ch freqHz p live)) := by
  rw [assemble_of_channel hb hp hch hf, if_neg (Bool.eq_false_iff.1 hx)]

theorem pktAsmWith_of_accepted (hx : crc16Rejects c (c.ifMod.get ch) p = false) : pktAsmWith c live s =
    .next ((s.popped r).finish (some (.record (buildRecord c s ch freqHz p live)))) :=
  pktAsmWith_of_assemble (assemble_of_accepted hb hp hch hf hx)

end Ends

theorem exists_centreHz {c : Config} (h : c.Legal) (ch : Fin 10) : ∃ freqHz, c.centreHz ch = some freqHz :=
  Option.isSome_iff_exists.1 (h ch)

/-- A PKT_ASM that hands over a record has popped an accepted packet on a channel 0..9 (R240). -/
theorem exists_packet_of_record {c : Config} {s t : State} {live : Word} {rec : NormalizedRxRecord}
    (h : pktAsmWith c live s = .next t) (hout : t.output = some (.record rec)) :
    ∃ (p : DecodedPacket) (r : Nat) (ch : Fin 10) (freqHz : Nat), s.size.toNat ≤ bufCap ∧
      s.parse c.layout = .ok (p, r) ∧ p.channel.toNat = ch.val ∧ c.centreHz ch = some freqHz ∧
      crc16Rejects c (c.ifMod.get ch) p = false ∧ rec = buildRecord c s ch freqHz p live := by
  unfold pktAsmWith at h
  obtain ⟨-, ho⟩ | ⟨hb, ⟨f, -, ho⟩ | ⟨p, r, -, -, ho⟩ | ⟨_, _, _, -, -, ho⟩ | ⟨p, r, _, _, -, -, -, ho⟩ |
    ⟨p, r, freqHz, hch, hp, hf, hx, ho⟩⟩ := assemble_cases (rfl : s.assemble c live = _)
  all_goals rw [ho] at h
  all_goals cases h
  all_goals cases hout
  exact ⟨p, r, ⟨p.channel.toNat, hch⟩, freqHz, hb, hp, rfl, hf, hx, rfl⟩

/-! ## The statements -/

/-- Settles O49. -/
theorem pktAsmDiscardsAfterAFailedPop : Obligations.PktAsmDiscardsAfterAFailedPop := by
  intro live s hb
  constructor
  · intro f hp
    exact pktAsmWith_of_assemble (c := Config.board) (assemble_of_parse_error hb hp)
  · intro p r hp hch
    exact pktAsmWith_of_assemble (c := Config.board) (assemble_of_high_channel hb hp (Nat.not_lt.2 hch))

/-- Settles O50: legality gives the channel a frequency, so that the comparison is reached. -/
theorem crc16MismatchKeepsTheBuffer : Obligations.Crc16MismatchKeepsTheBuffer := by
  refine ⟨fun c live s p r ch hlegal hb hp hch hkind hen hne => ?_, board_legal, exec_pktAsm⟩
  obtain ⟨freqHz, hf⟩ := exists_centreHz hlegal ch
  have hx : crc16Rejects c (c.ifMod.get ch) p = true := crc16Rejects_iff.2 ⟨hkind, hen, hne⟩
  rw [pktAsmWith_of_assemble (assemble_of_crc16Rejects hb hp hch hf hx), popped_eq]
  rfl

/-- Settles O48: the accepted packet's record, field by field. -/
theorem pktAsmReturnsARecord : Obligations.PktAsmReturnsARecord := by
  intro live s p r ch kind ifHz hb hp hch hkind hif hcrc
  subst hkind hif
  obtain ⟨freqHz, hf⟩ := exists_centreHz board_legal ch
  obtain ⟨rf, hrf, hsum, -, hlt⟩ := centreHz_eq_some.1 hf
  have hrun := pktAsmWith_of_accepted (live := live) hb hp hch hf (crc16Rejects_eq_false hcrc)
  rw [popped_eq] at hrun
  have hfreq : ((BitVec.ofNat 32 freqHz).toNat : ℤ) = rf.toNat + (Config.board.ifFreq.get ch).toInt := by
    rw [BitVec.toNat_ofNat, Nat.mod_eq_of_lt hlt, hsum]
  refine ⟨buildRecord Config.board s ch freqHz p live, rf, s.pktExpand (raw27Of p.timestamp),
    coarseCorrection Config.board (Config.board.ifMod.get ch) (Config.board.bw.get ch) p, hrf, hrun, hfreq,
    rfl, rfl, rfl, modulation_eq _, rfl, rfl, rfl, rfl, rfl, rfl, rfl, rfl, rfl, rfl, rfl, ?codes,
    fun hfsk => ?fsk, fun hlora => freqOffsetHz_of_lora hlora _ _,
    fun hlora hlo hhi => exec_correction hlora ⟨hlo, hhi⟩ _ s, fun hlora hsf => coarseCorrection_of_not_sfLegal _ hlora hsf _, ?expanded, countUs_toNat _ _⟩
  case codes =>
    split
    · rename_i h
      obtain ⟨hlora, hlo, hhi, hcrlo, hcrhi⟩ := h
      have hlegal := codesLegal_iff.2 ⟨⟨hlora, hlo, hhi⟩, hcrlo, hcrhi⟩
      simp only [buildRecord, if_pos hlegal]
      exact ⟨spreadingOf_mem ⟨hlo, hhi⟩, codingRateOf_mem hcrlo hcrhi⟩
    · rename_i h
      have hillegal : ¬ codesLegal (Config.board.ifMod.get ch) p = true := fun hlegal =>
        have ⟨⟨hlora, hlo, hhi⟩, hcrlo, hcrhi⟩ := codesLegal_iff.1 hlegal
        h ⟨hlora, hlo, hhi, hcrlo, hcrhi⟩
      simp only [buildRecord, if_neg hillegal, and_self]
  case fsk =>
    have hnot : ¬ isLora (Config.board.ifMod.get ch) = true := fun hlora => isLora_iff.1 hlora hfsk
    exact ⟨if_neg hnot, if_neg hnot⟩
  case expanded =>
    rw [← raw27Of_eq_ofNat]
    rfl

/-- Settles O51: the ring and the live value are read by the overlay alone, whose failure leaves the record without a
fine timestamp. -/
theorem fineTimestampOnlyOverlays : Obligations.FineTimestampOnlyOverlays := by
  intro c live live' s s' t a hs' hrun hout
  obtain ⟨p, r, ch, freqHz, hb, hp, hch, hf, hx, rfl⟩ := exists_packet_of_record hrun hout
  have hb' : s'.size.toNat ≤ bufCap := by rw [hs']; exact hb
  have hp' : s'.parse c.layout = .ok (p, r) := by rw [hs']; exact hp
  have hinst : s'.inst = s.inst := by rw [hs']
  refine ⟨⟨_, _, pktAsmWith_of_accepted hb' hp' hch hf hx, rfl, rfl, buildRecord_eq_of_inst_eq hinst⟩, ?_⟩
  cases hfine : fineOverlay c s ch freqHz p live with
  | none =>
    obtain ⟨hpresent, hns⟩ := buildRecord_of_fineOverlay_none hfine
    rw [hpresent, hns]
    exact ⟨by decide, fun _ => rfl, nofun⟩
  | some v =>
    obtain ⟨hpresent, hns⟩ := buildRecord_of_fineOverlay_some hfine
    obtain ⟨hel, hfull, hv⟩ := fineOverlay_eq_some hfine
    obtain ⟨⟨hlora, hlo, hhi⟩, hmetric, htiming, hcrc⟩ := fineEligible_iff.1 hel
    rw [hpresent, hns]
    exact ⟨hv, nofun, fun _ => ⟨hfull, if_pos (isLora_iff.2 hlora), hcrc, p, r, hp, hmetric, htiming, hlo, hhi⟩⟩

/-- Settles O52: the overlay runs the steps of FTIME_CALC on the operands of R253. -/
theorem fineTimestampIsFtimeCalc : Obligations.FineTimestampIsFtimeCalc := by
  refine ⟨fun c live s t u p r rec ch hp hch hrun hout => ?_, exec_pktAsm, fun _ _ _ _ _ _ _ _ => rfl⟩
  obtain ⟨p', r', ch', freqHz, -, hp', hch', hf, -, rfl⟩ := exists_packet_of_record hrun hout
  obtain ⟨rfl, rfl⟩ := Prod.mk.inj (Except.ok.inj (hp.symm.trans hp'))
  obtain rfl : ch = ch' := Fin.ext (hch.symm.trans hch')
  intro eligible
  have heligible : eligible ↔ fineEligible (c.ifMod.get ch) p = true := by
    rw [fineEligible_iff, crcPassed_iff]
    simp only [eligible, and_assoc]
  refine ⟨fun hnot => ?_, fun hel hcalc => ?_⟩
  · exact buildRecord_of_fineOverlay_none (fineOverlay_of_not_eligible fun hel => hnot (heligible.2 hel))
  · have hfreq : (BitVec.ofNat 32 freqHz).toNat = freqHz := by
      obtain ⟨-, -, -, -, hlt⟩ := centreHz_eq_some.1 hf
      exact Nat.mod_eq_of_lt hlt
    simp only [buildRecord, hfreq] at hcalc
    obtain ⟨hfine, hnone⟩ := fineOverlay_of_ftimeCalcWith (heligible.1 hel) hcalc
    exact ⟨fun v hv => buildRecord_of_fineOverlay_some (hfine v hv),
      fun hu => buildRecord_of_fineOverlay_none (hnone hu)⟩

end Sys2Proof.Machine
end

section
/-! Proofs of the family `46_assembler.md`: RECEIVE and its loop over the packets of a cycle (R256 to R258). -/

namespace Sys2Proof.Machine

open Sys2Proof.Params

/-! ## What no operation reads (R42, R43) -/

/-- The state with another STATUS and other results. -/
def State.marked (s : State) (st : BitVec 8) (o : Option Result) : State := { s with status := st, output := o }

theorem State.marked_output (s : State) (st : BitVec 8) (o : Option Result) : (s.marked st o).output = o := rfl

theorem State.marked_self (s : State) : s.marked s.status s.output = s := rfl

theorem State.marked_marked (s : State) (st st' : BitVec 8) (o o' : Option Result) :
    (s.marked st o).marked st' o' = s.marked st' o' := rfl

theorem State.finish_eq_marked (s : State) (r : Option Result) : s.finish r = s.marked 0#8 r := rfl

theorem exists_marked_of_conclude {s t : State} {e : Except Failure Result} (h : s.conclude e = .next t) :
    ∃ st o, t = s.marked st o := by
  obtain ⟨r, -, rfl⟩ | ⟨f, -, rfl⟩ := conclude_eq_next.1 h
  · exact ⟨_, _, rfl⟩
  · exact ⟨_, _, rfl⟩

theorem savePps_marked (s : State) (st : BitVec 8) (o : Option Result) (raw : Word) :
    (s.marked st o).savePps raw = (s.savePps raw).marked st o := by
  obtain ⟨hnew, -⟩ | ⟨hf, hr, -⟩ := savePps_cases s raw
  · rw [savePps_of_new hnew, savePps_of_new (s := s.marked st o) hnew]
    rfl
  · rw [savePps_of_newest hf hr, savePps_of_newest (s := s.marked st o) hf hr]

theorem sampleCounters_marked (s : State) (st : BitVec 8) (o : Option Result) (l : PairLayout)
    (pair : Vector Byte 8) : (s.marked st o).sampleCounters l pair = (s.sampleCounters l pair).marked st o := by
  rw [State.sampleCounters, savePps_marked]
  rfl

theorem assemble_marked {c : Config} {s u : State} {live : Word} {e : Except Failure NormalizedRxRecord}
    (h : s.assemble c live = .next (u, e)) (st : BitVec 8) (o : Option Result) :
    (s.marked st o).assemble c live = .next (u.marked st o, e) := by
  obtain ⟨-, ho⟩ | ⟨hb, ⟨f, hp, ho⟩ | ⟨p, r, hp, hch, ho⟩ | ⟨_, _, _, -, -, ho⟩ | ⟨p, r, _, _, hp, hf, hx, ho⟩ |
    ⟨p, r, _, _, hp, hf, hx, ho⟩⟩ := assemble_cases h
  all_goals cases ho
  · exact assemble_of_parse_error (s := s.marked st o) hb hp
  · exact assemble_of_high_channel (s := s.marked st o) hb hp hch
  · exact assemble_of_crc16Rejects (s := s.marked st o) hb hp rfl hf hx
  · exact assemble_of_accepted (s := s.marked st o) hb hp rfl hf hx

/-! ## One packet of a cycle -/

section OnePacket

variable {c : Config} {s u : State} {live : Word} {e : Except Failure NormalizedRxRecord}

/-- A legal configuration and a buffer in range leave PKT_ASM neither a refusal nor a fault. -/
theorem exists_assemble (hlegal : c.Legal) (hb : s.size.toNat ≤ bufCap) (live : Word) :
    ∃ u e, s.assemble c live = .next (u, e) := by
  obtain ⟨hbig, -⟩ | ⟨-, ⟨f, -, ho⟩ | ⟨p, r, -, -, ho⟩ | ⟨_, _, hch, -, hnone, -⟩ | ⟨p, r, _, _, -, -, -, ho⟩ |
    ⟨p, r, _, _, -, -, -, ho⟩⟩ := assemble_cases (rfl : s.assemble c live = _)
  · omega
  · exact ⟨_, _, ho⟩
  · exact ⟨_, _, ho⟩
  · obtain ⟨freqHz, hf⟩ := exists_centreHz hlegal ⟨_, hch⟩
    cases hnone.symm.trans hf
  · exact ⟨_, _, ho⟩
  · exact ⟨_, _, ho⟩

/-- R257: each call lowers the packet count, by one or to 0, and `size` stays in range. -/
theorem assemble_lowers_packetCount (h : s.assemble c live = .next (u, e)) :
    u.size.toNat ≤ bufCap ∧ u.packetCount.toNat ≤ s.packetCount.toNat - 1 := by
  obtain ⟨-, ho⟩ | ⟨hb, ⟨_, -, ho⟩ | ⟨_, _, -, -, ho⟩ | ⟨_, _, _, -, -, ho⟩ | ⟨_, r, _, _, -, -, -, ho⟩ |
    ⟨_, r, _, _, -, -, -, ho⟩⟩ := assemble_cases h
  all_goals cases ho
  · exact ⟨Nat.zero_le _, Nat.zero_le _⟩
  · exact ⟨Nat.zero_le _, Nat.zero_le _⟩
  · exact ⟨hb, (popped_packetCount_toNat s r).le⟩
  · exact ⟨hb, (popped_packetCount_toNat s r).le⟩

theorem toNat_pos_of_packetCount_ne (h : s.packetCount ≠ 0#8) : 0 < s.packetCount.toNat :=
  Nat.pos_of_ne_zero fun h0 => h (BitVec.eq_of_toNat_eq h0)

end OnePacket

/-! ## The loop (R256) -/

section Loop

variable {c : Config} {s u : State} {live : Word} {lives : List Word} {out o : List NormalizedRxRecord}

theorem receiveLoop_of_no_packet (h : s.packetCount = 0#8) : s.receiveLoop c lives out = .next (s, out) := by
  cases lives with
  | nil => rfl
  | cons live lives => rw [State.receiveLoop, if_pos h]

/-- One pass: a record is kept, a failure absorbed (R278). -/
theorem receiveLoop_cons {e : Except Failure NormalizedRxRecord} (hne : s.packetCount ≠ 0#8)
    (h : s.assemble c live = .next (u, e)) :
    s.receiveLoop c (live :: lives) out = u.receiveLoop c lives (out ++ e.toOption.toList) := by
  rw [State.receiveLoop, if_neg hne, h]
  cases e with
  | ok r => rfl
  | error f => exact congrArg (u.receiveLoop c lives) (List.append_nil out).symm

theorem length_toOption_toList_le {ε α : Type} (e : Except ε α) : e.toOption.toList.length ≤ 1 := by
  cases e with
  | ok r => exact le_refl 1
  | error f => exact Nat.zero_le 1

/-- R257: with a live value for every packet the loop ends with none left, and a record for a packet at most. -/
theorem exists_receiveLoop (hlegal : c.Legal) : ∀ (lives : List Word) (s : State) (out : List NormalizedRxRecord),
    s.size.toNat ≤ bufCap → s.packetCount.toNat ≤ lives.length →
    ∃ u o, s.receiveLoop c lives out = .next (u, o) ∧ u.packetCount = 0#8 ∧
      o.length ≤ out.length + s.packetCount.toNat := by
  intro lives
  induction lives with
  | nil =>
    intro s out _ hlen
    exact ⟨s, out, rfl, BitVec.eq_of_toNat_eq (Nat.le_zero.1 hlen), Nat.le_add_right _ _⟩
  | cons live lives ih =>
    intro s out hb hlen
    by_cases hc : s.packetCount = 0#8
    · exact ⟨s, out, receiveLoop_of_no_packet hc, hc, Nat.le_add_right _ _⟩
    · have hpos := toNat_pos_of_packetCount_ne hc
      obtain ⟨v, e, ha⟩ := exists_assemble hlegal hb live
      obtain ⟨hbv, hv⟩ := assemble_lowers_packetCount ha
      rw [List.length_cons] at hlen
      obtain ⟨u, o, hloop, hzero, ho⟩ := ih v (out ++ e.toOption.toList) hbv (by omega)
      refine ⟨u, o, (receiveLoop_cons hc ha).trans hloop, hzero, ?_⟩
      have hone := length_toOption_toList_le e
      rw [List.length_append] at ho
      omega

/-- The loop writes what pops and discards write: no byte, no domain, no slot. -/
theorem receiveLoop_frame (h : s.receiveLoop c lives out = .next (u, o)) :
    u.buf = s.buf ∧ u.inst = s.inst ∧ u.pps = s.pps ∧ u.slot = s.slot ∧ u.widx = s.widx ∧ u.fill = s.fill ∧
      u.cycles = s.cycles := by
  refine receiveLoop_keeps (P := fun u => u.buf = s.buf ∧ u.inst = s.inst ∧ u.pps = s.pps ∧ u.slot = s.slot ∧
    u.widx = s.widx ∧ u.fill = s.fill ∧ u.cycles = s.cycles) (fun a b live e ha hab => ?_) h
    ⟨rfl, rfl, rfl, rfl, rfl, rfl, rfl⟩
  obtain ⟨hbuf, hinst, hpps, hslot, hwidx, hfill, hcycles, -⟩ := assemble_frame hab
  rwa [hbuf, hinst, hpps, hslot, hwidx, hfill, hcycles]

end Loop

/-! ## The start of a cycle: the fetch and the counter sample (R256) -/

theorem exists_marked_of_exec_bufFetch {len1 len2 : Half} {data : List Byte} {s a : State}
    (h : exec (.bufFetch len1 len2 data) s = .next a) :
    FetchLegal len1 len2 data ∧ ∃ st o, a = (s.fetch Config.board.layout data).1.marked st o := by
  obtain ⟨hl, hend⟩ := guarded_eq_next.1 h
  exact ⟨hl, exists_marked_of_conclude hend⟩

theorem exec_cntSample (pair : Vector Byte 8) (s : State) : exec (.cntSample pair) s =
    .next ((s.sampleCounters Config.board.pairLayout pair).finish
      (some (.sample ((s.sampleCounters Config.board.pairLayout pair).sampledUs Config.board.pairLayout pair).1
        ((s.sampleCounters Config.board.pairLayout pair).sampledUs Config.board.pairLayout pair).2))) := rfl

/-- The ring after a snapshot depends on the ring before it only. -/
theorem savePps_ring_eq {s t : State} (hslot : s.slot = t.slot) (hwidx : s.widx = t.widx) (hfill : s.fill = t.fill)
    (raw : Word) : (s.savePps raw).slot = (t.savePps raw).slot ∧ (s.savePps raw).widx = (t.savePps raw).widx ∧
      (s.savePps raw).fill = (t.savePps raw).fill := by
  have hnewest : s.slotAt s.widx = t.slotAt t.widx := by rw [State.slotAt, State.slotAt, hslot, hwidx]
  obtain ⟨hnew, ht⟩ | ⟨hf, hr, ht⟩ := savePps_cases t raw
  · have hnew' : s.fill = 0#5 ∨ raw ≠ s.slotAt s.widx := by rwa [hfill, hnewest]
    rw [savePps_of_new hnew', ht]
    simp only [hslot, hwidx, hfill, and_self]
  · rw [savePps_of_newest (hfill ▸ hf) (hr.trans hnewest.symm), ht]
    exact ⟨hslot, hwidx, hfill⟩

/-- The state in which a cycle's loop starts. -/
def State.cycleStart (s : State) (data : List Byte) (pair : Vector Byte 8) : State :=
  (s.fetch Config.board.layout data).1.sampleCounters Config.board.pairLayout pair

section CycleStart

variable {s : State} {data : List Byte} {pair : Vector Byte 8}

theorem cycleStart_cycles : (s.cycleStart data pair).cycles = s.cycles := by
  obtain ⟨-, -, -, -, -, hcycles, -⟩ := fetch_frame Config.board.layout s data
  rw [State.cycleStart, State.sampleCounters_cycles, hcycles]

/-- A fetch keeps the buffer's registers in their ranges (R37, R408). -/
theorem fetch_ranges (l : RecordLayout) (s : State) (hd : data.length ≤ bufCap) :
    (s.fetch l data).1.size.toNat ≤ bufCap ∧ (s.fetch l data).1.packetCount.toNat ≤ packetsMax := by
  obtain hf | ⟨d, -, hf⟩ | ⟨d, n, hl, hw, hf⟩ := fetch_state_cases l s hd
  all_goals rw [hf]
  · exact ⟨Nat.zero_le _, Nat.zero_le _⟩
  · exact ⟨Nat.zero_le _, Nat.zero_le _⟩
  · have hn := walk_le_packetsMax hl hw
    exact ⟨(load_size_toNat s.clearBuffer hl).trans_le hl, (count_toNat hn).trans_le hn⟩

theorem cycleStart_ranges (hd : data.length ≤ bufCap) :
    (s.cycleStart data pair).size.toNat ≤ bufCap ∧ (s.cycleStart data pair).packetCount.toNat ≤ packetsMax := by
  rw [State.cycleStart, State.sampleCounters_size, State.sampleCounters_packetCount]
  exact fetch_ranges _ s hd

/-- The sample of a cycle does not depend on the fetch before it. -/
theorem sampledUs_cycleStart : (s.cycleStart data pair).sampledUs Config.board.pairLayout pair =
    (s.sampleCounters Config.board.pairLayout pair).sampledUs Config.board.pairLayout pair := by
  obtain ⟨hinst, hpps, -⟩ := fetch_frame Config.board.layout s data
  simp only [State.sampledUs, State.cycleStart, State.sampleCounters_inst, State.sampleCounters_pps, hinst, hpps]

variable {len1 len2 : Half} {lives : List Word}

theorem exec_receive_of_receiveLoop {u : State} {out : List NormalizedRxRecord} (hl : FetchLegal len1 len2 data)
    (h : (s.cycleStart data pair).receiveLoop Config.board ((s.cycleStart data pair).drawLives lives) [] =
      .next (u, out)) :
    exec (.receive len1 len2 data pair lives) s = .next (u.countCycle.finish (some (.cycle out
      ((s.cycleStart data pair).sampledUs Config.board.pairLayout pair).1
      ((s.cycleStart data pair).sampledUs Config.board.pairLayout pair).2))) := by
  change receiveWith Config.board len1 len2 data pair lives s = _
  unfold State.cycleStart at h ⊢
  rw [receiveWith, if_pos hl]
  dsimp only
  rw [h]

theorem exec_receive_of_not_fetchLegal (hl : ¬ FetchLegal len1 len2 data) :
    exec (.receive len1 len2 data pair lives) s = .refused (.precondition .fetchOperands) := if_neg hl

/-- A cycle sees of its listed live values what it draws. -/
theorem exec_receive_congr {lives' : List Word}
    (h : (s.cycleStart data pair).drawLives lives = (s.cycleStart data pair).drawLives lives') :
    exec (.receive len1 len2 data pair lives) s = exec (.receive len1 len2 data pair lives') s := by
  change receiveWith Config.board len1 len2 data pair lives s = receiveWith Config.board len1 len2 data pair lives' s
  unfold State.cycleStart at h
  rw [receiveWith, receiveWith]
  dsimp only
  rw [h]

/-- R257: every cycle's loop ends, whatever was fetched. -/
theorem exists_cycle (hl : FetchLegal len1 len2 data) :
    ∃ u out, (s.cycleStart data pair).receiveLoop Config.board ((s.cycleStart data pair).drawLives lives) [] =
      .next (u, out) ∧ u.packetCount = 0#8 ∧ out.length ≤ packetsMax := by
  obtain ⟨hb, hcount⟩ := cycleStart_ranges (s := s) (pair := pair) (length_le_of_fetchLegal hl)
  obtain ⟨u, out, hloop, hzero, hout⟩ :=
    exists_receiveLoop board_legal _ (s.cycleStart data pair) [] hb (drawLives_length _ lives).ge
  rw [List.length_nil, Nat.zero_add] at hout
  exact ⟨u, out, hloop, hzero, hout.trans hcount⟩

end CycleStart

/-- Settles O53: the loop ends with no packet left, and leaves the bytes, the domains and the ring as the fetch and
the sample do. -/
theorem receiveAlwaysEndsOk : Obligations.ReceiveAlwaysEndsOk := by
  intro len1 len2 data pair lives s
  refine ⟨fun hl => ?_, exec_receive_of_not_fetchLegal⟩
  obtain ⟨u, out, hloop, hzero, hout⟩ := exists_cycle (s := s) (pair := pair) (lives := lives) hl
  obtain ⟨hbuf, hinst, hpps, hslot, hwidx, hfill, -⟩ := receiveLoop_frame hloop
  have hrun := exec_receive_of_receiveLoop hl hloop
  rw [sampledUs_cycleStart] at hrun
  obtain ⟨a, hfetch, -, -, -, hbyte, hainst, happs, haslot, hawidx, hafill⟩ :=
    bufFetchEndsWithCountOrFailure len1 len2 data s hl
  obtain ⟨-, st, o, rfl⟩ := exists_marked_of_exec_bufFetch hfetch
  obtain ⟨hrslot, hrwidx, hrfill⟩ := savePps_ring_eq haslot hawidx hafill (pairPps Config.board.pairLayout pair)
  rw [savePps_marked] at hrslot hrwidx hrfill
  refine ⟨_, _, out, _, _, hrun, exec_cntSample pair s, rfl, hzero, hout, rfl, rfl, fun a ha => ?_, ?_, ?_,
    hslot.trans hrslot, hwidx.trans hrwidx, hfill.trans hrfill⟩
  · have hsame : u.byte a = (s.fetch Config.board.layout data).1.byte a := by
      rw [State.byte, hbuf, State.cycleStart, State.sampleCounters_buf, State.byte]
    exact hsame.trans (hbyte a ha)
  · refine hinst.trans ?_
    rw [State.cycleStart, State.sampleCounters_inst, State.finish_inst, State.sampleCounters_inst]
    exact congrArg (TimestampDomain.update · _) hainst
  · refine hpps.trans ?_
    rw [State.cycleStart, State.sampleCounters_pps, State.finish_pps, State.sampleCounters_pps]
    exact congrArg (TimestampDomain.update · _) happs

/-! ## The cycle as single operations (R256, R258) -/

/-- The draws of a cycle start with the listed values, as far as there are both. -/
theorem take_drawLives (s : State) (lives : List Word) :
    (s.drawLives lives).take lives.length = lives.take (s.drawLives lives).length := by
  rw [drawLives_length]
  refine List.ext_getElem (by simp [State.drawLives, Nat.min_comm]) fun i hi hi' => ?_
  rw [List.length_take] at hi'
  have hlt : i < lives.length := by omega
  simp [State.drawLives, liveValue, List.getElem?_eq_getElem hlt]

theorem assembleAll_of_no_packet {s : State} (h : s.packetCount = 0#8) (lives : List Word)
    (out : List NormalizedRxRecord) : assembleAll lives s out = some (s, out) := by
  cases lives with
  | nil => rw [assembleAll, if_pos h]
  | cons live lives => rw [assembleAll, if_pos h]

/-- One pass of the host's loop that does not stop. -/
theorem exists_assemble_of_assembleAll_cons {s : State} {live : Word} {lives : List Word}
    {out : List NormalizedRxRecord} {x : State × List NormalizedRxRecord} (hne : s.packetCount ≠ 0#8)
    (h : assembleAll (live :: lives) s out = some x) :
    ∃ u e st o, s.assemble Config.board live = .next (u, e) ∧
      assembleAll lives (u.marked st o) (out ++ e.toOption.toList) = some x := by
  rw [assembleAll, if_neg hne, exec_pktAsm] at h
  cases ha : s.assemble Config.board live with
  | next ue =>
    obtain ⟨u, e⟩ := ue
    rw [pktAsmWith_of_assemble ha] at h
    cases e with
    | ok r => exact ⟨u, .ok r, _, _, rfl, h⟩
    | error f =>
      refine ⟨u, .error f, failureCode f, none, rfl, ?_⟩
      rw [← List.append_nil out] at h
      exact h
  | fault f => simp only [pktAsmWith, ha, reduceCtorEq] at h
  | refused r => simp only [pktAsmWith, ha, reduceCtorEq] at h

/-- Where the host's loop ends, RECEIVE's loop ends in the same registers with the same records: they differ in STATUS
and results, which PKT_ASM does not read. -/
theorem receiveLoop_of_assembleAll : ∀ (lives draws : List Word) {s d : State} {out o : List NormalizedRxRecord},
    assembleAll lives s out = some (d, o) → draws.take lives.length = lives.take draws.length →
    s.packetCount.toNat ≤ draws.length → ∀ (st : BitVec 8) (r : Option Result),
    (s.marked st r).receiveLoop Config.board draws out = .next (d.marked st r, o) := by
  intro lives
  induction lives with
  | nil =>
    intro draws s d out o h _ _ st r
    have hc : s.packetCount = 0#8 := by
      by_contra hne
      rw [assembleAll, if_neg hne] at h
      cases h
    rw [assembleAll_of_no_packet hc] at h
    cases h
    exact receiveLoop_of_no_packet hc
  | cons live lives ih =>
    intro draws s d out o h hagree hlen st r
    by_cases hc : s.packetCount = 0#8
    · rw [assembleAll_of_no_packet hc] at h
      cases h
      exact receiveLoop_of_no_packet hc
    · have hpos := toNat_pos_of_packetCount_ne hc
      obtain ⟨u, e, st', r', ha, hrest⟩ := exists_assemble_of_assembleAll_cons hc h
      have hlower := (assemble_lowers_packetCount ha).2
      cases draws with
      | nil => exact absurd (hpos.trans_le hlen) (lt_irrefl 0)
      | cons draw draws =>
        rw [List.length_cons] at hlen
        obtain ⟨rfl, htail⟩ := List.cons.inj hagree
        rw [receiveLoop_cons (s := s.marked st r) hc (assemble_marked ha st r)]
        exact ih draws hrest htail (show u.packetCount.toNat ≤ draws.length by omega) st r

/-- R258, log 14: the free values that a cycle draws beyond its list, for as many calls as a cycle
can make. -/
def continuation (cycle : Nat) (lives : List Word) : List Word :=
  (List.range packetsMax).map fun i => Config.freeLive cycle (lives.length + i)

theorem liveValue_append_continuation (cycle : Nat) (lives : List Word) (i : Nat) :
    liveValue cycle (lives ++ continuation cycle lives) i = liveValue cycle lives i := by
  unfold liveValue
  by_cases hi : i < lives.length
  · rw [List.getElem?_append_left hi]
  · obtain ⟨j, rfl⟩ := Nat.exists_eq_add_of_le (Nat.not_lt.1 hi)
    rw [List.getElem?_append_right (Nat.le_add_right _ _), Nat.add_sub_cancel_left, continuation, List.getElem?_map,
      List.getElem?_eq_none (l := lives) (Nat.le_add_right _ _), Option.getD_none]
    by_cases hj : j < packetsMax
    · rw [List.getElem?_range hj]
      rfl
    · rw [List.getElem?_eq_none (by rw [List.length_range]; omega)]
      rfl

/-- Settles O55: the states between the operations differ from those inside RECEIVE in STATUS and results only. -/
theorem receiveIsItsSteps : Obligations.ReceiveIsItsSteps := by
  constructor
  · intro len1 len2 data pair lives s a b d out ha hb hall
    obtain ⟨hl, st, r, rfl⟩ := exists_marked_of_exec_bufFetch ha
    rw [exec_cntSample, sampleCounters_marked, State.finish_eq_marked, State.marked_marked] at hb
    obtain rfl := Host.Outcome.next.inj hb
    have hloop := receiveLoop_of_assembleAll lives _ hall (take_drawLives (s.cycleStart data pair) lives)
      (drawLives_length (s.cycleStart data pair) lives).ge (s.cycleStart data pair).status
      (s.cycleStart data pair).output
    rw [State.marked_marked, ← State.cycleStart, State.marked_self] at hloop
    obtain ⟨-, -, -, -, -, -, hcycles⟩ := receiveLoop_frame hloop
    refine ⟨_, _, State.marked_output _ _ _, ?_⟩
    have hd : d.cycles = s.cycles := hcycles.trans cycleStart_cycles
    rw [exec_receive_of_receiveLoop hl hloop, ← hd]
    rfl
  · intro len1 len2 data pair lives s
    refine ⟨continuation s.cycles lives, ?_, exec_receive_congr ?_⟩
    · rw [List.length_append, continuation, List.length_map, List.length_range]
      exact Nat.le_add_left _ _
    · rw [State.drawLives, State.drawLives, cycleStart_cycles]
      exact List.map_congr_left fun i _ => (liveValue_append_continuation s.cycles lives i).symm

end Sys2Proof.Machine
end

section
/-! Proofs of the family `46_assembler.md`: a cycle over back-to-back good records (R257, R184, R260). -/

namespace Sys2Proof.Machine

open Sys2Proof.Params

/-! ## A stored record as a packet (R93) -/

/-- Bytes read from a stored string are a part of it. -/
theorem bytesAt_of_storedAt {rd : Nat → Byte} {a : Nat} {d : List Byte} (h : StoredAt rd a d) {j n : Nat}
    (hn : j + n ≤ d.length) : bytesAt rd (a + j) n = (d.drop j).take n := by
  rw [bytesAt_eq_map]
  refine List.ext_getElem (by simp; omega) fun i hi _ => ?_
  have hlt : i < n := by simpa using hi
  have hat := h (j + i) (by omega)
  rw [List.getElem?_eq_getElem (by omega)] at hat
  simp [Option.some.inj hat, Nat.add_assoc]

section StoredRecord

variable {rd : Nat → Byte} {idx : Nat} {b : List Byte} (hb : FramedRecord b) (hst : StoredAt rd idx b)

include hb hst

/-- The fields that a returned record copies, at their places in the byte string. -/
theorem extract_of_storedAt :
    let p := extract recordLayout rd idx (recordN b) (recordM b)
    let tail := 9 + recordN b
    p.channel = b.getD 3 0#8 ∧ p.modemId = b.getD 5 0#8 ∧ p.payloadLen = b.getD 2 0#8 ∧
      p.payload = recordPayload b ∧ p.crc16 = recordCrc16 b ∧ p.crcEn = (b.getD 4 0#8).getLsbD 0 ∧
      p.crcError = (b.getD tail 0#8).getLsbD 0 ∧ p.snrAvg = b.getD (tail + 1) 0#8 ∧
      p.rssiChanAvg = b.getD (tail + 2) 0#8 ∧ p.rssiSigAvg = b.getD (tail + 3) 0#8 := by
  obtain ⟨-, -, hlen⟩ := hb
  have hhead {k : Nat} (hk : k < 9) : rd (idx + k) = b.getD k 0#8 := hst.getD (by omega)
  have htail {k : Nat} (hk : k < 14) : rd (idx + 9 + recordN b + k) = b.getD (9 + recordN b + k) 0#8 := by
    rw [Nat.add_assoc, Nat.add_assoc, ← Nat.add_assoc 9]
    exact hst.getD (by omega)
  have hpayload : bytesAt rd (idx + 9) (recordN b) = recordPayload b := bytesAt_of_storedAt hst (by omega)
  have hsize : BitVec.ofNat 8 (recordN b) = b.getD 2 0#8 := by
    rw [recordN, BitVec.ofNat_toNat, BitVec.setWidth_eq]
  rw [bytesAt_eq_map] at hpayload
  simp only [extractReadsEveryField rd idx (recordN b) (recordM b)]
  exact ⟨hhead (by decide), hhead (by decide), hsize, hpayload,
    congrArg₂ (fun hi lo : Byte => hi ++ lo) (htail (by decide)) (htail (by decide)),
    congrArg (BitVec.getLsbD · 0) (hhead (by decide)), congrArg (BitVec.getLsbD · 0) (htail (k := 0) (by decide)),
    htail (by decide), htail (by decide), htail (by decide)⟩

/-- R131: the checksum of a byte string holds where it is stored. -/
theorem checksumOk_of_storedAt (hsum : b.getD (b.length - 1) 0#8 = csum8 (b.take (b.length - 1))) :
    checksumOk recordLayout rd idx (recordN b) (recordM b) = true := by
  obtain ⟨-, -, hlen⟩ := hb
  have hrec : recLen (recordN b) (recordM b) = b.length := hlen.symm
  have hbytes : bytesAt rd idx (b.length - 1) = b.take (b.length - 1) :=
    bytesAt_of_storedAt (j := 0) hst (by omega)
  have hlast : rd (idx + b.length - 1) = b.getD (b.length - 1) 0#8 := by
    rw [Nat.add_sub_assoc (by omega)]
    exact hst.getD (by omega)
  rw [checksumOk, beq_iff_eq, fieldBits_of_byte rfl rfl, recordLayout_checksum, hrec, hbytes, hlast, hsum]

end StoredRecord

/-! ## A good record at the cursor (R257) -/

section GoodRecordAtCursor

variable {c : Config} {s : State} {b : List Byte} (hgood : GoodRecord c b)
  (hst : StoredAt s.byte s.cursor.toNat b)

include hgood hst

theorem parse_of_goodRecord (hle : s.cursor.toNat + b.length ≤ s.size.toNat) : s.parse recordLayout =
    .ok (extract recordLayout s.byte s.cursor.toNat (recordN b) (recordM b), b.length) := by
  obtain ⟨hb, hsum, hmodem, hch, hsf, -⟩ := hgood
  have ⟨_, _, hlen⟩ := hb
  have hat {k : Nat} (hk : k < 9) : s.byte (s.cursor.toNat + k) = b.getD k 0#8 := hst.getD (by omega)
  refine parse_eq_ok.2 ⟨recordN b, recordM b, frameAt_of_framedRecord hb hst hle, hlen,
    checksumOk_of_storedAt hb hst hsum, rfl, metadataLegal_extract.2 ?_⟩
  rw [hat (by decide), hat (by decide), hat (by decide)]
  exact ⟨hmodem, fun hlora => ⟨hch, hsf hlora⟩⟩

/-- R245: the comparison does not reject a good record. -/
theorem crc16Rejects_of_goodRecord {ch : Fin 10} (hch : (b.getD 3 0#8).toNat = ch.val) :
    crc16Rejects c (c.ifMod.get ch) (extract recordLayout s.byte s.cursor.toNat (recordN b) (recordM b)) = false := by
  obtain ⟨hb, -, -, -, -, hcrc⟩ := hgood
  obtain ⟨-, -, -, hpayload, hcrc16, hen, -⟩ := extract_of_storedAt hb hst
  refine crc16Rejects_eq_false fun hlora henabled => ?_
  rw [hpayload, hcrc16]
  refine hcrc ch hch hlora ?_
  rw [hen, BitVec.getLsbD, Nat.testBit_zero, decide_eq_true_eq] at henabled
  exact henabled

theorem copiesRecord_of_goodRecord {ch : Fin 10} (hch : (b.getD 3 0#8).toNat = ch.val) (freqHz : Nat) (live : Word) :
    CopiesRecord c b (buildRecord c s ch freqHz
      (extract recordLayout s.byte s.cursor.toNat (recordN b) (recordM b)) live) := by
  obtain ⟨hchannel, hmodem, hsize, hpayload, hcrc16, hen, herr, hsnr, hchan, hsig⟩ := extract_of_storedAt hgood.1 hst
  exact ⟨hchannel, hmodem, hsize, hpayload, hcrc16, hen, herr, rfl, hsnr, hchan, hsig, ch, hch, rfl, rfl,
    modulation_eq _, rfl⟩

end GoodRecordAtCursor

/-! ## The loop over good records -/

/-- The records stand back to back from the cursor up to `size`, and are what is counted. -/
structure HoldsRecords (rs : List (List Byte)) (s : State) : Prop where
  good : ∀ b ∈ rs, GoodRecord Config.board b
  stored : StoredAt s.byte s.cursor.toNat rs.flatten
  ends : s.cursor.toNat + rs.flatten.length = s.size.toNat
  size_le_cap : s.size.toNat ≤ bufCap
  count : s.packetCount.toNat = rs.length

/-- One pass returns the first record and goes on behind it. -/
theorem HoldsRecords.assemble {b : List Byte} {rs : List (List Byte)} {s : State} (h : HoldsRecords (b :: rs) s)
    (live : Word) : ∃ u rec, s.assemble Config.board live = .next (u, .ok rec) ∧ CopiesRecord Config.board b rec ∧
      HoldsRecords rs u ∧ u.size = s.size := by
  obtain ⟨hgood, hrs⟩ := List.forall_mem_cons.1 h.good
  obtain ⟨hfirst, hothers⟩ := StoredAt.append (List.flatten_cons (l := b) (L := rs) ▸ h.stored)
  have hends := h.ends
  rw [List.flatten_cons, List.length_append, ← Nat.add_assoc] at hends
  have hp := parse_of_goodRecord hgood hfirst (by omega)
  obtain ⟨hchannel, -⟩ := extract_of_storedAt hgood.1 hfirst
  have ⟨_, _, _, hch, _⟩ := hgood
  have hfin : (b.getD 3 0#8).toNat = (⟨(b.getD 3 0#8).toNat, by omega⟩ : Fin 10).val := rfl
  obtain ⟨freqHz, hf⟩ := exists_centreHz board_legal ⟨(b.getD 3 0#8).toNat, by omega⟩
  have hcursor := popped_cursor_toNat hp
  refine ⟨_, _, assemble_of_accepted h.size_le_cap hp ((congrArg BitVec.toNat hchannel).trans hfin) hf
    (crc16Rejects_of_goodRecord hgood hfirst hfin), copiesRecord_of_goodRecord hgood hfirst hfin freqHz live,
    ⟨hrs, ?_, ?_, h.size_le_cap, ?_⟩, rfl⟩
  · rwa [hcursor]
  · rw [hcursor]
    exact hends
  · rw [popped_packetCount_toNat, h.count, List.length_cons, Nat.add_sub_cancel]

theorem receiveLoop_of_holdsRecords : ∀ (rs : List (List Byte)) (lives : List Word) (s : State)
    (out : List NormalizedRxRecord), HoldsRecords rs s → lives.length = rs.length →
    ∃ u o, s.receiveLoop Config.board lives out = .next (u, out ++ o) ∧
      List.Forall₂ (CopiesRecord Config.board) rs o ∧ u.packetCount = 0#8 ∧ u.cursor = s.size ∧ u.size = s.size := by
  intro rs
  induction rs with
  | nil =>
    intro lives s out h _
    have hcount : s.packetCount = 0#8 := BitVec.eq_of_toNat_eq h.count
    refine ⟨s, [], ?_, .nil, hcount, BitVec.eq_of_toNat_eq h.ends, rfl⟩
    rw [receiveLoop_of_no_packet hcount, List.append_nil]
  | cons b rs ih =>
    intro lives s out h hlen
    obtain ⟨live, lives, rfl⟩ := List.exists_cons_of_length_eq_add_one hlen
    obtain ⟨v, rec, ha, hcopy, hrest, hsize⟩ := h.assemble live
    obtain ⟨u, o, hloop, hall, hcount, hcursor, husize⟩ :=
      ih lives v (out ++ [rec]) hrest (Nat.succ.inj hlen)
    have hne : s.packetCount ≠ 0#8 := fun h0 => by
      have hc := h.count
      rw [h0] at hc
      cases hc
    refine ⟨u, rec :: o, ?_, .cons hcopy hall, hcount, hcursor.trans hsize, husize.trans hsize⟩
    rw [receiveLoop_cons hne ha]
    exact hloop.trans (by rw [List.append_assoc, List.singleton_append])

/-- The fetch of back-to-back good records puts them at the cursor (R184). -/
theorem holdsRecords_cycleStart {len1 len2 : Half} {rs : List (List Byte)} {s : State} (pair : Vector Byte 8)
    (hl : FetchLegal len1 len2 rs.flatten) (hw : s.BufferCanonical) (hgood : ∀ b ∈ rs, GoodRecord Config.board b) :
    HoldsRecords rs (s.cycleStart rs.flatten pair) ∧
      (s.cycleStart rs.flatten pair).size.toNat = rs.flatten.length := by
  have hframed : ∀ b ∈ rs, FramedRecord b := fun b hb => (hgood b hb).1
  have hlong : rs.flatten = [] ∨ 23 ≤ rs.flatten.length ∧ rs.flatten ≠ [] := by
    by_cases hnil : rs = []
    · exact .inl (by rw [hnil]; rfl)
    · have hmin : 23 ≤ rs.flatten.length := minLen_le_flatten hnil hframed
      exact .inr ⟨hmin, fun h0 => by rw [h0] at hmin; exact absurd hmin (by decide)⟩
  obtain ⟨a, hfetch, hsize, hcursor, hcount, -, -, hstored⟩ := bufFetchCountsCompleteRecords len1 len2 [] rs []
    rs.flatten s (List.append_nil _).symm hl hw hframed (.inl rfl) nofun hlong
  obtain ⟨-, st, o, rfl⟩ := exists_marked_of_exec_bufFetch hfetch
  have hsize' : (s.cycleStart rs.flatten pair).size.toNat = rs.flatten.length := by
    rw [State.cycleStart, State.sampleCounters_size]
    exact hsize
  have hcursor' : (s.cycleStart rs.flatten pair).cursor = 0#13 := by
    rw [State.cycleStart, State.sampleCounters_cursor]
    exact hcursor
  refine ⟨⟨hgood, ?_, ?_, (cycleStart_ranges (length_le_of_fetchLegal hl)).1, ?_⟩, hsize'⟩
  · rw [hcursor', State.cycleStart, State.sampleCounters_byte]
    intro k hk
    rw [BitVec.toNat_ofNat, Nat.zero_mod, Nat.zero_add]
    exact hstored k hk
  · rw [hcursor', hsize', BitVec.toNat_ofNat, Nat.zero_mod, Nat.zero_add]
  · rw [State.cycleStart, State.sampleCounters_packetCount]
    exact hcount

/-- Settles O54: the fetch puts the records at the cursor, and each pass of the loop returns the next. -/
theorem receiveReturnsEveryGoodRecord : Obligations.ReceiveReturnsEveryGoodRecord := by
  intro len1 len2 rs pair lives s hl hw hgood
  obtain ⟨hholds, hsize⟩ := holdsRecords_cycleStart pair hl hw hgood
  obtain ⟨u, o, hloop, hall, hcount, hcursor, husize⟩ := receiveLoop_of_holdsRecords rs
    ((s.cycleStart rs.flatten pair).drawLives lives) _ [] hholds ((drawLives_length _ lives).trans hholds.count)
  have hlen : u.cursor.toNat = rs.flatten.length := (congrArg BitVec.toNat hcursor).trans hsize
  exact ⟨_, o, _, _, exec_receive_of_receiveLoop hl hloop, State.finish_output _ _, hall, hcount, hlen,
    husize.trans hcursor.symm, rfl⟩

end Sys2Proof.Machine
end

section
/-! Proofs of the family `60_exceptions.md`: the failures of the operations and their effects (R270 to R276), that
every operation is total (R279), and the refusals (R280). -/

namespace Sys2Proof.Machine

open Sys2Proof.Params

/-! ## Preconditions (R280) -/

section Guarded

variable {p : Prop} [Decidable p] {k : Host.Outcome State Fault Refusal} {r e : Reject}

/-- An operation behind a precondition answers the name that its check answers. -/
theorem guarded_of_check_some (h : (if p then none else some r) = some e) :
    (if p then k else refusePrecondition r) = .refused (.precondition e) := by
  obtain ⟨hp, hr⟩ := Option.ite_none_left_eq_some.1 h
  obtain rfl := Option.some.inj hr
  exact if_neg hp

/-- An operation whose check finds nothing has its precondition. -/
theorem of_check_none (h : (if p then none else some r) = none) : p := by
  by_contra hp
  rw [if_neg hp] at h
  cases h

end Guarded

/-- Settles O6: seven operations have a precondition of their own, and ask for it before all else. -/
theorem brokenPreconditionsAreRefused : Obligations.BrokenPreconditionsAreRefused := by
  intro i e s h
  cases i with
  | crc16 | bufFetch | toa | corrLegacy | corrPrec | ftimeCalc | receive => exact guarded_of_check_some h
  | csum8 | tsUpdate | tsExpand | tsPktexp | cntSample | ppsSave | bufClear | bufPop | notch | pktAsm => cases h

/-! ## Totality (R279, R407) -/

theorem exists_conclude (s : State) (e : Except Failure Result) : ∃ t, s.conclude e = .next t := by
  cases e <;> exact ⟨_, rfl⟩

theorem exists_bufPop {s : State} (hb : s.size.toNat ≤ bufCap) : ∃ t, exec .bufPop s = .next t := by
  cases hp : s.parse recordLayout with
  | ok pr => exact ⟨_, exec_bufPop_of_parse_ok hb hp⟩
  | error f => exact ⟨_, exec_bufPop_of_parse_error hb hp⟩

theorem exists_pktAsm {s : State} (hb : s.size.toNat ≤ bufCap) (live : Word) :
    ∃ t, exec (.pktAsm live) s = .next t := by
  obtain ⟨u, e, ha⟩ := exists_assemble board_legal hb live
  obtain ⟨t, ht⟩ := exists_conclude u (e.map .record)
  exact ⟨t, (pktAsmWith_of_assemble ha).trans ht⟩

/-- R278: a cycle absorbs its failures and completes. -/
theorem exists_finish_of_receive {len1 len2 : Half} {data : List Byte} (s : State) (pair : Vector Byte 8)
    (lives : List Word) (hl : FetchLegal len1 len2 data) :
    ∃ (u : State) (r : Option Result), exec (.receive len1 len2 data pair lives) s = .next (u.finish r) := by
  obtain ⟨u, out, hloop, -⟩ := exists_cycle (s := s) (pair := pair) (lives := lives) hl
  exact ⟨_, _, exec_receive_of_receiveLoop hl hloop⟩

/-- A well-formed operation ends where `size` is inside the buffer: of the operations without a precondition only
the two that read records need that. -/
theorem exists_next_of_wellFormed {i : Instr} {s : State} (hb : s.size.toNat ≤ bufCap) (h : i.WellFormed) :
    ∃ t, exec i s = .next t := by
  cases i with
  | csum8 | tsUpdate | tsExpand | tsPktexp | cntSample | ppsSave | bufClear | notch => exact ⟨_, rfl⟩
  | crc16 | toa | corrLegacy | corrPrec => exact ⟨_, guarded_eq_next.2 ⟨of_check_none h, rfl⟩⟩
  | bufFetch | ftimeCalc =>
    exact (exists_conclude _ _).imp fun _ ht => guarded_eq_next.2 ⟨of_check_none h, ht⟩
  | bufPop => exact exists_bufPop hb
  | pktAsm live => exact exists_pktAsm hb live
  | receive len1 len2 data pair lives =>
    obtain ⟨u, r, hrun⟩ := exists_finish_of_receive s pair lives (of_check_none h)
    exact ⟨_, hrun⟩

/-- Settles O59: the operation ends, and each of its updates keeps the ranges. -/
theorem everyOperationIsTotal : Obligations.EveryOperationIsTotal := by
  intro i s hs hwf
  obtain ⟨t, ht⟩ := exists_next_of_wellFormed hs.size_le_cap hwf
  exact ⟨t, ht, rangesOk_keptByUpdates.exec hs ht⟩

/-! ## The failures of the shared parts (R272) -/

/-- A failing parse is one of BUF_POP's three failures. -/
theorem failureCode_of_parse_error {l : RecordLayout} {s : State} {f : Failure} (h : s.parse l = .error f) :
    failureCode f ∈ [1#8, 2#8, 3#8] := by
  by_cases hf : ∃ n m, frameAt l s.byte s.size.toNat s.cursor.toNat = .complete n m
  · obtain ⟨n, m, hf⟩ := hf
    cases hc : checksumOk l s.byte s.cursor.toNat n m with
    | false =>
      obtain rfl := Except.error.inj ((parse_of_checksum_mismatch hf hc).symm.trans h)
      decide
    | true =>
      cases hm : metadataLegal (extract l s.byte s.cursor.toNat n m) with
      | false =>
        obtain rfl := Except.error.inj ((parse_of_illegal_metadata hf hc hm).symm.trans h)
        decide
      | true => cases (parse_eq_ok.2 ⟨n, m, hf, rfl, hc, rfl, hm⟩).symm.trans h
  · push Not at hf
    obtain rfl := Except.error.inj ((parse_of_not_complete hf).symm.trans h)
    decide

/-- A failing fetch leaves an empty buffer, over whatever bytes it has stored (R174, R276). -/
theorem fetch_error {l : RecordLayout} {s : State} {data : List Byte} {f : Failure}
    (h : (s.fetch l data).2 = .error f) :
    f = .malformedBuffer ∧ ∃ b, (s.fetch l data).1 = { s.clearBuffer with buf := b } := by
  obtain ⟨-, hf⟩ | ⟨-, -, hf⟩ | ⟨_, -, -, -, hf⟩ | ⟨_, _, -, -, -, hf⟩ := fetch_cases l s data
  all_goals rw [hf] at h ⊢
  all_goals cases h
  · exact ⟨rfl, s.buf, rfl⟩
  · exact ⟨rfl, _, rfl⟩

/-- A failing PKT_ASM has discarded the buffer, or has popped a packet whose CRC16 does not match (R241, R242,
R245). -/
theorem assemble_error {c : Config} {s u : State} {live : Word} {f : Failure}
    (h : s.assemble c live = .next (u, .error f)) :
    (failureCode f ∈ [1#8, 2#8, 3#8] ∧ u = s.clearBuffer) ∨
      (f = .crc16Mismatch ∧ ∃ p r, s.parse c.layout = .ok (p, r) ∧ u = s.popped r) := by
  obtain ⟨-, ho⟩ | ⟨-, ⟨_, hp, ho⟩ | ⟨p, r, -, -, ho⟩ | ⟨_, _, _, -, -, ho⟩ | ⟨p, r, _, _, hp, -, -, ho⟩ |
    ⟨_, _, _, _, -, -, -, ho⟩⟩ := assemble_cases h
  all_goals cases ho
  · exact .inl ⟨failureCode_of_parse_error hp, rfl⟩
  · exact .inl ⟨by decide, rfl⟩
  · exact .inr ⟨rfl, p, r, hp, rfl⟩

/-! ## How an operation ends: with STATUS 0, or with a failure of its own (R272, R276) -/

/-- The failures of the operations and the state each leaves but for STATUS and the results, one constructor per
operation that can fail (R276). -/
inductive Fails : Instr → State → State → Failure → Prop where
  | bufFetch (len1 len2 : Half) (data : List Byte) (s : State) (b : List Host.Cell) :
      Fails (.bufFetch len1 len2 data) s { s.clearBuffer with buf := b } .malformedBuffer
  | bufPop (s : State) {f : Failure} (hf : failureCode f ∈ [1#8, 2#8, 3#8]) : Fails .bufPop s s f
  | ftimeCalc (metrics : List Byte) (m : Byte) (rawTs : Word) (sf : Nat) (ifFreqHz : Word) (freqError : ℚ)
      (livePps : Word) (s : State) {f : Failure} (hf : failureCode f ∈ [5#8, 6#8, 7#8]) :
      Fails (.ftimeCalc metrics m rawTs sf ifFreqHz freqError livePps) s s f
  | pktAsm (live : Word) {s u : State} {f : Failure} (ha : s.assemble Config.board live = .next (u, .error f)) :
      Fails (.pktAsm live) s u f

theorem status_eq_zero_of_finish {s t : State} {r : Option Result}
    (h : Host.Outcome.next (φ := Fault) (ρ := Refusal) (s.finish r) = .next t) : t.status = 0#8 := by
  obtain rfl := Host.Outcome.next.inj h
  rfl

theorem status_eq_zero_or_error_of_conclude {α : Type} {u t : State} {e : Except Failure α} {g : α → Result}
    (h : u.conclude (e.map g) = .next t) : t.status = 0#8 ∨ ∃ f, e = .error f ∧ t = u.fail f := by
  cases e with
  | ok v => exact .inl (status_eq_zero_of_finish h)
  | error f => exact .inr ⟨f, rfl, (Host.Outcome.next.inj h).symm⟩

theorem status_eq_zero_or_error_of_pktAsmWith {c : Config} {live : Word} {s t : State}
    (h : pktAsmWith c live s = .next t) :
    t.status = 0#8 ∨ ∃ u f, s.assemble c live = .next (u, .error f) ∧ t = u.fail f := by
  cases ha : s.assemble c live with
  | next ue =>
    obtain ⟨u, e⟩ := ue
    obtain h0 | ⟨f, rfl, rfl⟩ := status_eq_zero_or_error_of_conclude ((pktAsmWith_of_assemble ha).symm.trans h)
    · exact .inl h0
    · exact .inr ⟨u, f, rfl, rfl⟩
  | fault f => simp [pktAsmWith, ha] at h
  | refused r => simp [pktAsmWith, ha] at h

theorem status_eq_zero_or_fails {i : Instr} {s t : State} (h : exec i s = .next t) :
    t.status = 0#8 ∨ ∃ u f, Fails i s u f ∧ t = u.fail f := by
  cases i with
  | csum8 | tsUpdate | tsExpand | tsPktexp | cntSample | ppsSave | bufClear | notch =>
    exact .inl (status_eq_zero_of_finish h)
  | crc16 | toa | corrLegacy | corrPrec => exact .inl (status_eq_zero_of_finish (guarded_eq_next.1 h).2)
  | bufFetch len1 len2 data =>
    obtain h0 | ⟨f, hf, rfl⟩ := status_eq_zero_or_error_of_conclude (guarded_eq_next.1 h).2
    · exact .inl h0
    · obtain ⟨rfl, b, hu⟩ := fetch_error hf
      exact .inr ⟨_, _, .bufFetch len1 len2 data s b, by rw [hu]⟩
  | bufPop =>
    obtain ⟨hb, -⟩ := withBuffer_eq_next.1 h
    cases hp : s.parse recordLayout with
    | ok pr => exact .inl (status_eq_zero_of_finish ((exec_bufPop_of_parse_ok hb hp).symm.trans h))
    | error f =>
      have ht := Host.Outcome.next.inj ((exec_bufPop_of_parse_error hb hp).symm.trans h)
      exact .inr ⟨s, f, .bufPop s (failureCode_of_parse_error hp), ht.symm⟩
  | ftimeCalc metrics m rawTs sf ifFreqHz freqError livePps =>
    obtain h0 | ⟨f, herr, rfl⟩ := status_eq_zero_or_error_of_conclude (guarded_eq_next.1 h).2
    · exact .inl h0
    · obtain ⟨v, -, -, hok⟩ | ⟨f', hf', herr'⟩ :=
        fineTime_cases Config.board s metrics m rawTs sf ifFreqHz freqError livePps
      · cases hok.symm.trans herr
      · obtain rfl := Except.error.inj (herr'.symm.trans herr)
        exact .inr ⟨s, _, .ftimeCalc metrics m rawTs sf ifFreqHz freqError livePps s hf', rfl⟩
  | pktAsm live =>
    obtain h0 | ⟨u, f, ha, rfl⟩ := status_eq_zero_or_error_of_pktAsmWith h
    · exact .inl h0
    · exact .inr ⟨u, f, .pktAsm live ha, rfl⟩
  | receive len1 len2 data pair lives =>
    obtain ⟨hl, -⟩ := guarded_eq_next.1 h
    obtain ⟨u, r, hrun⟩ := exists_finish_of_receive s pair lives hl
    exact .inl (status_eq_zero_of_finish (hrun.symm.trans h))

/-! ## The statements -/

/-- R272: every row allows STATUS 0. -/
theorem zero_mem_allowedStatuses (i : Instr) : 0#8 ∈ allowedStatuses i := by
  cases i <;> exact List.mem_cons_self

theorem failureCode_mem_allowedStatuses {i : Instr} {s u : State} {f : Failure} (h : Fails i s u f) :
    failureCode f ∈ allowedStatuses i := by
  cases h with
  | bufFetch => exact .tail _ (.head _)
  | bufPop _ hf => exact .tail _ hf
  | ftimeCalc _ _ _ _ _ _ _ _ hf => exact .tail _ hf
  | pktAsm live ha =>
    obtain ⟨hf, -⟩ | ⟨rfl, -⟩ := assemble_error ha
    · exact .tail _ (List.mem_append_left [4#8] hf)
    · exact List.mem_append_right [0#8, 1#8, 2#8, 3#8] (.head _)

/-- Settles O57: an operation ends with STATUS 0 or with the code of a failure of its own. -/
theorem onlyTheAllowedStatusesOccur : Obligations.OnlyTheAllowedStatusesOccur := by
  intro i s t h
  obtain h0 | ⟨u, f, hfails, rfl⟩ := status_eq_zero_or_fails h
  · exact h0 ▸ zero_mem_allowedStatuses i
  · exact failureCode_mem_allowedStatuses hfails

theorem opcode_mem_of_fails {i : Instr} {s u : State} {f : Failure} (h : Fails i s u f) :
    i.opcode ∈ [Opcode.bufFetch, .bufPop, .ftimeCalc, .pktAsm] := by
  cases h <;> simp [Instr.opcode]

/-- Settles O58: a STATUS other than 0 is the code of one of the failures above, each with the state it leaves. -/
theorem failuresHaveExactlyTheirEffects : Obligations.FailuresHaveExactlyTheirEffects := by
  refine ⟨fun i s t h hne => ?_, exec_pktAsm, fun c live s t h hne => ?_⟩
  · obtain h0 | ⟨u, f, hfails, rfl⟩ := status_eq_zero_or_fails h
    · exact absurd h0 hne
    · refine ⟨opcode_mem_of_fails hfails, ?_⟩
      cases hfails with
      | bufFetch => exact ⟨nofun, nofun, fun _ => rfl⟩
      | bufPop _ hf => exact ⟨fun _ => ⟨hf, rfl⟩, nofun, nofun⟩
      | ftimeCalc _ _ _ _ _ _ _ _ hf => exact ⟨nofun, fun _ => ⟨hf, rfl⟩, nofun⟩
      | pktAsm live ha => exact ⟨nofun, nofun, nofun⟩
  · obtain h0 | ⟨u, f, ha, rfl⟩ := status_eq_zero_or_error_of_pktAsmWith h
    · exact absurd h0 hne
    · obtain ⟨hf, rfl⟩ | ⟨rfl, p, r, hp, rfl⟩ := assemble_error ha
      · refine ⟨fun _ => ⟨hf, rfl⟩, fun h4 => ?_⟩
        rw [show failureCode f = 4#8 from h4] at hf
        exact absurd hf (by decide)
      · refine ⟨fun h4 => absurd rfl h4, fun _ => ⟨p, r, hp, ?_⟩⟩
        rw [popped_eq]
        rfl

end Sys2Proof.Machine
end

section
/-! Proofs of the family `70_reset_and_hazards.md`: the first counter update after reset (R312), and a pop past the
records that BUF_FETCH counted (R321). -/

namespace Sys2Proof.Machine

/-! ## The first update after reset (R312) -/

/-- R312: no raw value is below a reference of 0, so no wrap is counted. -/
theorem update_of_ref_zero {d : TimestampDomain} (h : d.ref = 0#27) (raw : Raw27) :
    d.update raw = ⟨raw, d.wrap⟩ := by
  obtain ⟨hbelow, -⟩ | ⟨-, hkept⟩ := update_cases d raw
  · exact absurd (h ▸ hbelow) BitVec.not_lt_zero
  · exact hkept

theorem expandWith_zero_lt (raw : Raw27) : (expandWith 0#5 raw).toNat < 2 ^ 27 := by
  rw [expandWith_toNat, BitVec.toNat_zero, Nat.zero_mul, Nat.zero_add]
  exact raw.isLt

theorem reset_tsUpdate_pps (p i : Raw27) : (State.reset.tsUpdate p i).pps = ⟨p, 0#5⟩ :=
  update_of_ref_zero rfl p

theorem reset_tsUpdate_inst (p i : Raw27) : (State.reset.tsUpdate p i).inst = ⟨i, 0#5⟩ :=
  update_of_ref_zero rfl i

theorem reset_tsUpdate_domain_wrap (p i : Raw27) (dom : DomainName) :
    ((State.reset.tsUpdate p i).domain dom).wrap = 0#5 := by
  cases dom with
  | inst => exact congrArg TimestampDomain.wrap (reset_tsUpdate_inst p i)
  | pps => exact congrArg TimestampDomain.wrap (reset_tsUpdate_pps p i)

/-- Settles O19: both domains keep wrap 0 over the update, so an expanded value is the raw value itself. -/
theorem firstUpdateCountsNoWrap : Obligations.FirstUpdateCountsNoWrap := by
  intro p i
  refine ⟨(State.reset.tsUpdate p i).finish none, rfl, reset_tsUpdate_pps p i, reset_tsUpdate_inst p i,
    fun dom raw => ⟨expandWith 0#5 raw, expandWith_zero_lt raw, ?_⟩⟩
  rw [exec_tsExpand_finish, reset_tsUpdate_domain_wrap]
  rfl

/-! ## A pop past the counted records (R321) -/

/-- R321: where no packet is known to remain, no complete record stands at the cursor: the walk would have
counted it. -/
theorem State.Framed.not_complete_of_no_packet {s : State} (h : s.Framed) (hc : s.packetCount = 0#8) (n m : Nat) :
    frameAt Config.board.layout s.byte s.size.toNat s.cursor.toNat ≠ .complete n m := by
  intro hf
  have hcounted := (walk_of_complete hf).symm.trans h
  rw [hc] at hcounted
  obtain ⟨k, -, hk⟩ := Option.map_eq_some_iff.1 hcounted
  exact Nat.succ_ne_zero k hk

/-- Settles O38: the parse finds no complete record at the cursor. -/
theorem popAtCountZeroFails : Obligations.PopAtCountZeroFails := fun _ hinv hc =>
  exec_bufPop_of_parse_error hinv.ranges.size_le_cap (parse_of_not_complete (hinv.framed.not_complete_of_no_packet hc))

end Sys2Proof.Machine
end
